-- ==== Sys2Proof/Word.lean ====
section
/-! DEFINITION. The word types of the hardware (00_scope.md R5, R7): bytes, 16-bit words, 12-bit addresses, register numbers. -/

namespace Sys2Proof

/-- A memory cell or a general register: 8 bits, unsigned (R8, R22). -/
abbrev Byte := BitVec 8

/-- An instruction word, `I`, `PC` or a stack slot: 16 bits (R10 to R12, R38). -/
abbrev Word := BitVec 16

/-- The immediate `NNN`: a 12-bit byte address (R41). -/
abbrev Addr := BitVec 12

/-- The immediate `N` or any nibble of an instruction word: 4 bits (R7). -/
abbrev Nibble := BitVec 4

/-- The number of a general register: "A register number is always 4 bits" (R8). -/
abbrev Reg := Fin 16

/-- The number of a key: the `index` port of `SETKEY` is 4 bits (R104). -/
abbrev Key := Fin 16

end Sys2Proof
end

