-- ==== Sys2Proof/Syntax.lean ====
section
/-! DEFINITION. The 34 instructions (30_encoding.md R43), one constructor per row of spec/opcode_table.json. -/

namespace Sys2Proof

/-- An instruction with its operand fields. Register numbers are 4 bits (R8), immediates have the widths of R41, so that
every term is an instruction the hardware has. -/
inductive Instr where
  /-- `00E0` (R79) -/
  | cls
  /-- `00EE` (R51) -/
  | ret
  /-- `1NNN` (R49) -/
  | jp (nnn : Addr)
  /-- `2NNN` (R50) -/
  | call (nnn : Addr)
  /-- `3XNN` (R53) -/
  | seImm (x : Reg) (nn : Byte)
  /-- `4XNN` (R54) -/
  | sneImm (x : Reg) (nn : Byte)
  /-- `5XY0` (R55) -/
  | seReg (x y : Reg)
  /-- `6XNN` (R58) -/
  | ldImm (x : Reg) (nn : Byte)
  /-- `7XNN` (R67) -/
  | addImm (x : Reg) (nn : Byte)
  /-- `8XY0` (R59) -/
  | ldReg (x y : Reg)
  /-- `8XY1` (R68) -/
  | orReg (x y : Reg)
  /-- `8XY2` (R69) -/
  | andReg (x y : Reg)
  /-- `8XY3` (R70) -/
  | xorReg (x y : Reg)
  /-- `8XY4` (R71) -/
  | addReg (x y : Reg)
  /-- `8XY5` (R72) -/
  | subReg (x y : Reg)
  /-- `8XY6` (R73); the `Y` field is carried and ignored (R40, R45) -/
  | shr (x y : Reg)
  /-- `8XY7` (R74) -/
  | subnReg (x y : Reg)
  /-- `8XYE` (R75); the `Y` field is carried and ignored (R40, R45) -/
  | shl (x y : Reg)
  /-- `9XY0` (R56) -/
  | sneReg (x y : Reg)
  /-- `ANNN` (R60) -/
  | ldI (nnn : Addr)
  /-- `BNNN` (R52) -/
  | jpV0 (nnn : Addr)
  /-- `CXNN` (R76) -/
  | rnd (x : Reg) (nn : Byte)
  /-- `DXYN` (R80) -/
  | drw (x y : Reg) (n : Nibble)
  /-- `EX9E` (R85) -/
  | skp (x : Reg)
  /-- `EXA1` (R86) -/
  | sknp (x : Reg)
  /-- `FX07` (R82) -/
  | ldVxDt (x : Reg)
  /-- `FX0A` (R87) -/
  | ldVxK (x : Reg)
  /-- `FX15` (R83) -/
  | ldDtVx (x : Reg)
  /-- `FX18` (R84) -/
  | ldStVx (x : Reg)
  /-- `FX1E` (R77) -/
  | addI (x : Reg)
  /-- `FX29` (R64) -/
  | ldF (x : Reg)
  /-- `FX33` (R63) -/
  | ldB (x : Reg)
  /-- `FX55` (R61) -/
  | ldMiVx (x : Reg)
  /-- `FX65` (R62) -/
  | ldVxMi (x : Reg)
deriving DecidableEq, Repr

/-- The row's `mnemonic` in spec/opcode_table.json (R46). -/
def Instr.mnemonic : Instr → String
  | .cls => "CLS"
  | .ret => "RET"
  | .jp _ => "JP_NNN"
  | .call _ => "CALL_NNN"
  | .seImm _ _ => "SE_VX_NN"
  | .sneImm _ _ => "SNE_VX_NN"
  | .seReg _ _ => "SE_VX_VY"
  | .ldImm _ _ => "LD_VX_NN"
  | .addImm _ _ => "ADD_VX_NN"
  | .ldReg _ _ => "LD_VX_VY"
  | .orReg _ _ => "OR_VX_VY"
  | .andReg _ _ => "AND_VX_VY"
  | .xorReg _ _ => "XOR_VX_VY"
  | .addReg _ _ => "ADD_VX_VY"
  | .subReg _ _ => "SUB_VX_VY"
  | .shr _ _ => "SHR_VX"
  | .subnReg _ _ => "SUBN_VX_VY"
  | .shl _ _ => "SHL_VX"
  | .sneReg _ _ => "SNE_VX_VY"
  | .ldI _ => "LD_I_NNN"
  | .jpV0 _ => "JP_V0_NNN"
  | .rnd _ _ => "RND_VX_NN"
  | .drw _ _ _ => "DRW_VX_VY_N"
  | .skp _ => "SKP_VX"
  | .sknp _ => "SKNP_VX"
  | .ldVxDt _ => "LD_VX_DT"
  | .ldVxK _ => "LD_VX_K"
  | .ldDtVx _ => "LD_DT_VX"
  | .ldStVx _ => "LD_ST_VX"
  | .addI _ => "ADD_I_VX"
  | .ldF _ => "LD_F_VX"
  | .ldB _ => "LD_B_VX"
  | .ldMiVx _ => "LD_MI_VX"
  | .ldVxMi _ => "LD_VX_MI"

end Sys2Proof
end

