-- ==== Sys2Proof/WellFormed.lean ====
section
/-! DEFINITION. Well-formed instruction words (30_encoding.md R44).

Every term of `Instr` is well-formed by its type: register numbers are `Fin 16` (R8: "no register number is out of range")
and immediates have exactly their encoded widths (R41). What can be ill-formed is an instruction WORD. The checks below are
written from R44's list of illegal words, one per family with fixed sub-opcode bits, independently of the decoder and of
the mask/match table in Decode.lean, so that the three can be proved to agree. -/

namespace Sys2Proof.WellFormed

/-- The word's top nibble `T`, in place. -/
def inFamily (t op : Word) : Bool := op &&& 0xF000 == t

/-- "`0x0000`-`0x0FFF` except `0x00E0`, `0x00EE`" are illegal (R44, D1). -/
def check0 (op : Word) : Bool := !inFamily 0x0000 op || op == 0x00E0 || op == 0x00EE

/-- "`5XYN` with `N != 0`" is illegal (R44, D3). -/
def check5 (op : Word) : Bool := !inFamily 0x5000 op || op &&& 0x000F == 0

/-- "`8XYN` with `N` in `8, 9, A, B, C, D, F`" is illegal (R44). -/
def check8 (op : Word) : Bool := !inFamily 0x8000 op || !([0x8, 0x9, 0xA, 0xB, 0xC, 0xD, 0xF] : List Word).contains (op &&& 0x000F)

/-- "`9XYN` with `N != 0`" is illegal (R44, D3). -/
def check9 (op : Word) : Bool := !inFamily 0x9000 op || op &&& 0x000F == 0

/-- "`EXNN` with `NN` not `9E`, `A1`" is illegal (R44). -/
def checkE (op : Word) : Bool := !inFamily 0xE000 op || ([0x9E, 0xA1] : List Word).contains (op &&& 0x00FF)

/-- "`FXNN` with `NN` not in `07, 0A, 15, 18, 1E, 29, 33, 55, 65`" is illegal (R44). -/
def checkF (op : Word) : Bool :=
  !inFamily 0xF000 op || ([0x07, 0x0A, 0x15, 0x18, 0x1E, 0x29, 0x33, 0x55, 0x65] : List Word).contains (op &&& 0x00FF)

/-- A legal instruction word: none of the rows of R44's table holds it. -/
def word (op : Word) : Bool := check0 op && check5 op && check8 op && check9 op && checkE op && checkF op

end Sys2Proof.WellFormed
end

