-- ==== Sys2Proof/Decode.lean ====
section
/-! DEFINITION. The decoder (30_encoding.md R42), the opcode table (R43) and the encoder. -/

namespace Sys2Proof

/-! ## Fields (00_scope.md R7, 30_encoding.md R39) -/

/-- `T = op[15:12]`. -/
def fieldT (op : Word) : Nibble := op.extractLsb' 12 4

/-- The nibble `op[11:8]`. -/
def nibbleX (op : Word) : Nibble := op.extractLsb' 8 4

/-- The nibble `op[7:4]`. -/
def nibbleY (op : Word) : Nibble := op.extractLsb' 4 4

/-- `N = op[3:0]`. -/
def fieldN (op : Word) : Nibble := op.extractLsb' 0 4

/-- `NN = op[7:0]`. -/
def fieldNN (op : Word) : Byte := op.extractLsb' 0 8

/-- `NNN = op[11:0]`. -/
def fieldNNN (op : Word) : Addr := op.extractLsb' 0 12

/-- `X = op[11:8]` as a register number. -/
def fieldX (op : Word) : Reg := (nibbleX op).toFin

/-- `Y = op[7:4]` as a register number. -/
def fieldY (op : Word) : Reg := (nibbleY op).toFin

/-! ## Decode -/

/-- Why bytes are rejected by the decoder. -/
inductive Reject where
  /-- The word matches no row of R43: the `STEP` raises `UnknownOpcode` (R44). -/
  | unknownOpcode (op : Word)
  /-- Fewer than two bytes were given; an instruction is exactly two (R38). -/
  | truncated (have_ : Nat)
deriving DecidableEq, Repr

/-- R42: "classify by the top nibble (and, for ambiguous families, by the low byte or low nibble)", every fixed bit compared
(decision D3). -/
def decodeWord (op : Word) : Except Reject Instr :=
  match (fieldT op).toNat with
  | 0x0 =>
    if op = 0x00E0 then .ok .cls
    else if op = 0x00EE then .ok .ret
    else .error (.unknownOpcode op)
  | 0x1 => .ok (.jp (fieldNNN op))
  | 0x2 => .ok (.call (fieldNNN op))
  | 0x3 => .ok (.seImm (fieldX op) (fieldNN op))
  | 0x4 => .ok (.sneImm (fieldX op) (fieldNN op))
  | 0x5 => if fieldN op = 0 then .ok (.seReg (fieldX op) (fieldY op)) else .error (.unknownOpcode op)
  | 0x6 => .ok (.ldImm (fieldX op) (fieldNN op))
  | 0x7 => .ok (.addImm (fieldX op) (fieldNN op))
  | 0x8 =>
    match (fieldN op).toNat with
    | 0x0 => .ok (.ldReg (fieldX op) (fieldY op))
    | 0x1 => .ok (.orReg (fieldX op) (fieldY op))
    | 0x2 => .ok (.andReg (fieldX op) (fieldY op))
    | 0x3 => .ok (.xorReg (fieldX op) (fieldY op))
    | 0x4 => .ok (.addReg (fieldX op) (fieldY op))
    | 0x5 => .ok (.subReg (fieldX op) (fieldY op))
    | 0x6 => .ok (.shr (fieldX op) (fieldY op))
    | 0x7 => .ok (.subnReg (fieldX op) (fieldY op))
    | 0xE => .ok (.shl (fieldX op) (fieldY op))
    | _ => .error (.unknownOpcode op)
  | 0x9 => if fieldN op = 0 then .ok (.sneReg (fieldX op) (fieldY op)) else .error (.unknownOpcode op)
  | 0xA => .ok (.ldI (fieldNNN op))
  | 0xB => .ok (.jpV0 (fieldNNN op))
  | 0xC => .ok (.rnd (fieldX op) (fieldNN op))
  | 0xD => .ok (.drw (fieldX op) (fieldY op) (fieldN op))
  | 0xE =>
    if fieldNN op = 0x9E then .ok (.skp (fieldX op))
    else if fieldNN op = 0xA1 then .ok (.sknp (fieldX op))
    else .error (.unknownOpcode op)
  | 0xF =>
    if fieldNN op = 0x07 then .ok (.ldVxDt (fieldX op))
    else if fieldNN op = 0x0A then .ok (.ldVxK (fieldX op))
    else if fieldNN op = 0x15 then .ok (.ldDtVx (fieldX op))
    else if fieldNN op = 0x18 then .ok (.ldStVx (fieldX op))
    else if fieldNN op = 0x1E then .ok (.addI (fieldX op))
    else if fieldNN op = 0x29 then .ok (.ldF (fieldX op))
    else if fieldNN op = 0x33 then .ok (.ldB (fieldX op))
    else if fieldNN op = 0x55 then .ok (.ldMiVx (fieldX op))
    else if fieldNN op = 0x65 then .ok (.ldVxMi (fieldX op))
    else .error (.unknownOpcode op)
  | _ => .error (.unknownOpcode op)

/-- Big-endian (20_memory.md R25): the byte at the lower address is the high byte of the word. -/
def joinBytes (hi lo : Byte) : Word := hi ++ lo

/-- The high byte of a word, stored at the lower address (R25). -/
def highByte (op : Word) : Byte := op.extractLsb' 8 8

/-- The low byte of a word, stored at the higher address (R25). -/
def lowByte (op : Word) : Byte := op.extractLsb' 0 8

/-- The decoder on a byte sequence: two bytes are one instruction (R38); the rest is given back. -/
def decodeBytes : List Byte → Except Reject (Instr × List Byte)
  | hi :: lo :: rest =>
    match decodeWord (joinBytes hi lo) with
    | .ok i => .ok (i, rest)
    | .error r => .error r
  | bytes => .error (.truncated bytes.length)

/-- The instruction the decoder reads from a word numbered as spec/opcode_table.json numbers it (bit 0 the least significant
of `op`), laid out as the hardware stores it. -/
def decodeTableWord (nbits w : Nat) : Option Instr :=
  let op : Word := BitVec.ofNat 16 (w % 2 ^ nbits)
  match decodeBytes [highByte op, lowByte op] with
  | .ok (i, _) => some i
  | .error _ => none

/-! ## The opcode table (30_encoding.md R43) -/

/-- One row of R43: "a word `op` is the instruction when `op & mask = match`". -/
structure OpcodeRow where
  mnemonic : String
  mask : Word
  bits : Word
deriving DecidableEq, Repr

/-- `op & mask = match`. -/
def OpcodeRow.holds (row : OpcodeRow) (op : Word) : Bool := op &&& row.mask == row.bits

/-- R43 rows 1 to 17. -/
def opcodeTableLow : List OpcodeRow :=
  [⟨"CLS", 0xFFFF, 0x00E0⟩, ⟨"RET", 0xFFFF, 0x00EE⟩, ⟨"JP_NNN", 0xF000, 0x1000⟩, ⟨"CALL_NNN", 0xF000, 0x2000⟩,
   ⟨"SE_VX_NN", 0xF000, 0x3000⟩, ⟨"SNE_VX_NN", 0xF000, 0x4000⟩, ⟨"SE_VX_VY", 0xF00F, 0x5000⟩, ⟨"LD_VX_NN", 0xF000, 0x6000⟩,
   ⟨"ADD_VX_NN", 0xF000, 0x7000⟩, ⟨"LD_VX_VY", 0xF00F, 0x8000⟩, ⟨"OR_VX_VY", 0xF00F, 0x8001⟩, ⟨"AND_VX_VY", 0xF00F, 0x8002⟩,
   ⟨"XOR_VX_VY", 0xF00F, 0x8003⟩, ⟨"ADD_VX_VY", 0xF00F, 0x8004⟩, ⟨"SUB_VX_VY", 0xF00F, 0x8005⟩, ⟨"SHR_VX", 0xF00F, 0x8006⟩,
   ⟨"SUBN_VX_VY", 0xF00F, 0x8007⟩]

/-- R43 rows 18 to 34. -/
def opcodeTableHigh : List OpcodeRow :=
  [⟨"SHL_VX", 0xF00F, 0x800E⟩, ⟨"SNE_VX_VY", 0xF00F, 0x9000⟩, ⟨"LD_I_NNN", 0xF000, 0xA000⟩, ⟨"JP_V0_NNN", 0xF000, 0xB000⟩,
   ⟨"RND_VX_NN", 0xF000, 0xC000⟩, ⟨"DRW_VX_VY_N", 0xF000, 0xD000⟩, ⟨"SKP_VX", 0xF0FF, 0xE09E⟩, ⟨"SKNP_VX", 0xF0FF, 0xE0A1⟩,
   ⟨"LD_VX_DT", 0xF0FF, 0xF007⟩, ⟨"LD_VX_K", 0xF0FF, 0xF00A⟩, ⟨"LD_DT_VX", 0xF0FF, 0xF015⟩, ⟨"LD_ST_VX", 0xF0FF, 0xF018⟩,
   ⟨"ADD_I_VX", 0xF0FF, 0xF01E⟩, ⟨"LD_F_VX", 0xF0FF, 0xF029⟩, ⟨"LD_B_VX", 0xF0FF, 0xF033⟩, ⟨"LD_MI_VX", 0xF0FF, 0xF055⟩,
   ⟨"LD_VX_MI", 0xF0FF, 0xF065⟩]

/-- The complete instruction set: 34 rows (R43). -/
def opcodeTable : List OpcodeRow := opcodeTableLow ++ opcodeTableHigh

/-! ## Encode -/

/-- Four nibbles, `T` first (R40). -/
def packNibbles (t x y n : Nibble) : Word := t ++ x ++ y ++ n

/-- Format `NNN` (R40). -/
def packNNN (t : Nibble) (nnn : Addr) : Word := t ++ nnn

/-- Format `XNN` (R40), and format `X` with a fixed low byte. -/
def packXNN (t : Nibble) (x : Reg) (nn : Byte) : Word := t ++ BitVec.ofFin (w := 4) x ++ nn

/-- Formats `XY` and `XYN` (R40). -/
def packXYN (t : Nibble) (x y : Reg) (n : Nibble) : Word := packNibbles t (BitVec.ofFin (w := 4) x) (BitVec.ofFin (w := 4) y) n

/-- The word of an instruction, from R43's patterns and R40's formats. -/
def encode : Instr → Word
  | .cls => 0x00E0
  | .ret => 0x00EE
  | .jp nnn => packNNN 0x1 nnn
  | .call nnn => packNNN 0x2 nnn
  | .seImm x nn => packXNN 0x3 x nn
  | .sneImm x nn => packXNN 0x4 x nn
  | .seReg x y => packXYN 0x5 x y 0x0
  | .ldImm x nn => packXNN 0x6 x nn
  | .addImm x nn => packXNN 0x7 x nn
  | .ldReg x y => packXYN 0x8 x y 0x0
  | .orReg x y => packXYN 0x8 x y 0x1
  | .andReg x y => packXYN 0x8 x y 0x2
  | .xorReg x y => packXYN 0x8 x y 0x3
  | .addReg x y => packXYN 0x8 x y 0x4
  | .subReg x y => packXYN 0x8 x y 0x5
  | .shr x y => packXYN 0x8 x y 0x6
  | .subnReg x y => packXYN 0x8 x y 0x7
  | .shl x y => packXYN 0x8 x y 0xE
  | .sneReg x y => packXYN 0x9 x y 0x0
  | .ldI nnn => packNNN 0xA nnn
  | .jpV0 nnn => packNNN 0xB nnn
  | .rnd x nn => packXNN 0xC x nn
  | .drw x y n => packXYN 0xD x y n
  | .skp x => packXNN 0xE x 0x9E
  | .sknp x => packXNN 0xE x 0xA1
  | .ldVxDt x => packXNN 0xF x 0x07
  | .ldVxK x => packXNN 0xF x 0x0A
  | .ldDtVx x => packXNN 0xF x 0x15
  | .ldStVx x => packXNN 0xF x 0x18
  | .addI x => packXNN 0xF x 0x1E
  | .ldF x => packXNN 0xF x 0x29
  | .ldB x => packXNN 0xF x 0x33
  | .ldMiVx x => packXNN 0xF x 0x55
  | .ldVxMi x => packXNN 0xF x 0x65

/-- The two bytes of an instruction as they stand in memory (R25). -/
def encodeBytes (i : Instr) : List Byte := [highByte (encode i), lowByte (encode i)]

end Sys2Proof
end

