-- ==== Sys2Proof/Config.lean ====
section
/-! DEFINITION. What is fixed for the machine (the parameters of 00_scope.md R5) and the one free value. -/

namespace Sys2Proof.Config

/-- `MEM_SIZE`: 4096 bytes, addresses `0x000` to `0xFFF` (R5). -/
abbrev memSize : Nat := 0x1000

/-- `PROG_BASE`: the first program address, and the entry point (R5, R20). -/
abbrev progBase : Nat := 0x200

/-- `PROG_MAX`: the largest program, 3584 bytes (R5). -/
abbrev progMax : Nat := 3584

/-- `FONT_BASE`: the address of the font table, the default of the spec (R5, decision D4; log entry 9). -/
abbrev fontBase : Nat := 0x050

/-- `STACK_DEPTH`: 16 entries (R5). -/
abbrev stackDepth : Nat := 16

/-- The number of the flag register `VF` (R5, R9). -/
abbrev flagReg : Reg := 15

/-- The draws `r` of the `STEP(r)` events, in the order in which `RND` takes them: FREE VALUES, "a free draw under no law"
(R19, R76, decision D24). It has no body: no proof can know a value of it (log entry 4). -/
opaque freeDraw : Nat → Byte

end Sys2Proof.Config
end

