-- ==== Sys2Proof/Machine/State.lean ====
section
/-! DEFINITION. The state of the machine (10_state.md), its faults, the host's events, and the state after reset. -/

namespace Sys2Proof.Machine

/-- The kind of access that an `AddressOutOfRange` fault records (60_exceptions.md R89, R90). -/
inductive Access where
  /-- instruction fetch (20_memory.md R31) -/
  | fetch
  /-- data read (20_memory.md R29) -/
  | read
  /-- data write (20_memory.md R30) -/
  | write
deriving DecidableEq, Repr

/-- A fault record `(kind, info)` as it stands in `FAULT`: the four kinds a `STEP` can raise (10_state.md R17,
60_exceptions.md R89). A fault is TAKEN: the step answers a next state with the record latched (R95; log entry 1), so no
step answers `Host.Outcome.fault`. The fifth kind, `ProgramTooLarge`, is the result of a `LOAD` and is never stored; it is
`LoadResult.programTooLarge` in Machine/Outputs.lean. -/
inductive Fault where
  /-- An address with no memory, or one the access may not touch. Raised by the fetch of any `STEP` (R31), by `DRW` and
  `LD Vx, [I]` (read, R29), by `LD [I], Vx` and `LD B, Vx` (write, R30). Safe: the spec's own effect (R90, R95). -/
  | addressOutOfRange (access : Access) (addr : Word)
  /-- The fetched word `op` matches no row of R43; `pc` is where it was fetched from. Raised by any `STEP` (R91). Safe: the
  spec's own effect. -/
  | unknownOpcode (op pc : Word)
  /-- `CALL` with `SP = 16` (R92). Safe: the spec's own effect. -/
  | stackOverflow (pc : Word)
  /-- `RET` with `SP = 0` (R93). Safe: the spec's own effect. -/
  | stackUnderflow (pc : Word)
deriving DecidableEq, Repr

/-- Why the model gives an event no meaning. -/
inductive Refusal where
  /-- An instruction whose arm of `exec` has no meaning yet. Safe: the run ends. No arm of this model answers it. -/
  | notModelled (mnemonic : String)
  /-- A `STEP`, `TICK` or `SETKEY` before the first `INITIALIZE` or successful `LOAD`, where "every element of state is
  unspecified" and "a model should refuse them" (70_reset_and_hazards.md R110, decision D32; log entry 3). Raised by `step`
  only. Safe: the run ends. -/
  | beforeFirstReset
deriving DecidableEq, Repr

/-- The five events through which alone the hardware changes state (00_scope.md R4). The draw of `STEP(r)` is not carried
here; it is a free value (log entry 4). -/
inductive Event where
  /-- `INITIALIZE` (70_reset_and_hazards.md R108) -/
  | init
  /-- `LOAD(bytes)` (70_reset_and_hazards.md R109) -/
  | load (bytes : List Byte)
  /-- `STEP` (30_encoding.md R47) -/
  | step
  /-- `TICK` (60_exceptions.md R101) -/
  | tick
  /-- `SETKEY(index, pressed)` (60_exceptions.md R104) -/
  | setKey (index : Key) (pressed : Bool)
deriving DecidableEq, Repr

/-- `Mem`: the bytes that differ from the reset contents, by address, in the canonical form of `Memory.wf`
(Machine/Memory.lean; log entry 5). -/
abbrev Memory := List Host.Cell

/-- `FB[y][x]`: 32 rows of 64 one-bit pixels (10_state.md R15). -/
abbrev FrameBuffer := Vector (Vector Bool 64) 32

/-- The complete state (10_state.md R20), the condition of R110, and two fields of the model's own. -/
structure State where
  /-- `V[0]` to `V[15]` (R8); `V[15]` is the flag register (R9) -/
  v : Vector Byte 16
  /-- the index register `I` (R10) -/
  i : Word
  /-- the program counter `PC` (R11) -/
  pc : Word
  /-- the depth counter `SP`, 0 to 16 (R12; log entry 8) -/
  sp : Fin 17
  /-- the call stack (R12) -/
  stack : Vector Word 16
  /-- the delay timer `DT` (R13) -/
  dt : Byte
  /-- the sound timer `ST` (R13) -/
  st : Byte
  /-- the framebuffer (R15) -/
  fb : FrameBuffer
  /-- the input latch `K`, `true` = pressed (R16) -/
  keys : Vector Bool 16
  /-- the fault latch `FAULT` (R17) -/
  fault : Option Fault
  /-- memory (R14) -/
  mem : Memory
  /-- an `INITIALIZE` or a successful `LOAD` has happened (70_reset_and_hazards.md R110; log entry 3) -/
  ready : Bool
  /-- THE MODEL'S OWN: which free draw the next `RND` takes (log entry 4) -/
  draws : Nat
  /-- THE MODEL'S OWN: the host's events still to come, oldest first; an empty list stands for `STEP`s (log entry 2) -/
  schedule : List Event
deriving DecidableEq, Repr

/-- What an instruction or an event answers. -/
abbrev Result := Host.Outcome State Fault Refusal

/-- The machine after `INITIALIZE`: the table of 10_state.md R20 and 70_reset_and_hazards.md R108. Memory lists nothing, so
every byte reads as its reset contents. -/
def State.reset : State where
  v := Vector.replicate 16 0x00
  i := 0x0000
  pc := 0x0200
  sp := 0
  stack := Vector.replicate 16 0x0000
  dt := 0x00
  st := 0x00
  fb := Vector.replicate 32 (Vector.replicate 64 false)
  keys := Vector.replicate 16 false
  fault := none
  mem := []
  ready := true
  draws := 0
  schedule := []

end Sys2Proof.Machine
end

