-- ==== Sys2Proof/Machine/Memory.lean ====
section
/-! DEFINITION. Memory: reset contents, canonical form, the primitives of 20_memory.md R28 and the guards of R29 to R31. -/

namespace Sys2Proof.Machine

/-- The font bytes of the digits 0 to 7 (20_memory.md R24, decision D5). -/
def fontLow : List Byte :=
  [0xF0, 0x90, 0x90, 0x90, 0xF0,  0x20, 0x60, 0x20, 0x20, 0x70,
   0xF0, 0x10, 0xF0, 0x80, 0xF0,  0xF0, 0x10, 0xF0, 0x10, 0xF0,
   0x90, 0x90, 0xF0, 0x10, 0x10,  0xF0, 0x80, 0xF0, 0x10, 0xF0,
   0xF0, 0x80, 0xF0, 0x90, 0xF0,  0xF0, 0x10, 0x20, 0x40, 0x40]

/-- The font bytes of the digits 8 to F (20_memory.md R24, decision D5). UNVERIFIED: R24's table gives D the rows of B, and so
does the model (log entry 15). -/
def fontHigh : List Byte :=
  [0xF0, 0x90, 0xF0, 0x90, 0xF0,  0xF0, 0x90, 0xF0, 0x10, 0xF0,
   0xF0, 0x90, 0xF0, 0x90, 0x90,  0xE0, 0x90, 0xE0, 0x90, 0xE0,
   0xF0, 0x80, 0x80, 0x80, 0xF0,  0xE0, 0x90, 0xE0, 0x90, 0xE0,
   0xF0, 0x80, 0xF0, 0x80, 0xF0,  0xF0, 0x80, 0xF0, 0x80, 0x80]

/-- `FONT[0..79]`. -/
def font : List Byte := fontLow ++ fontHigh

/-- What a byte that no store has changed reads as: its reset contents, the font at `0x050` to `0x09F` and zero elsewhere
(R23, R24, 70_reset_and_hazards.md R108; log entry 5). -/
def Memory.resetByte (a : Nat) : Byte :=
  if Config.fontBase ≤ a then (font[a - Config.fontBase]?).getD 0x00 else 0x00

/-- Canonical form from the address `lo` on: strictly rising addresses below `0x1000`, no entry equal to the reset contents. -/
def Memory.wfFrom (lo : Nat) : Memory → Bool
  | [] => true
  | (a, b) :: rest => decide (lo ≤ a) && decide (a < Config.memSize) && b != Memory.resetByte a && Memory.wfFrom (a + 1) rest

/-- The canonical form of memory: equal contents are equal lists. -/
def Memory.wf (m : Memory) : Bool := Memory.wfFrom 0 m

/-- No byte of the reserved region `0x000` to `0x1FF` differs from its reset contents (R23, R24). -/
def Memory.reservedIntact (m : Memory) : Bool := m.all fun c => decide (Config.progBase ≤ c.1)

/-- `MemRead(addr, 1)` (R28). Every caller has passed a guard, so `a` is at most `0xFFF` (log entry 10). -/
def Memory.read (m : Memory) (a : Nat) : Byte :=
  match m with
  | [] => Memory.resetByte a
  | (c, b) :: rest => if c = a then b else Memory.read rest a

/-- `MemWrite(addr, 1, v)` (R28), keeping the canonical form. -/
def Memory.write (m : Memory) (a : Nat) (b : Byte) : Memory :=
  match m with
  | [] => if b = Memory.resetByte a then [] else [(a, b)]
  | (c, d) :: rest =>
    if a < c then (if b = Memory.resetByte a then (c, d) :: rest else (a, b) :: (c, d) :: rest)
    else if a = c then (if b = Memory.resetByte a then rest else (a, b) :: rest)
    else (c, d) :: Memory.write rest a b

/-- The bytes `bs` stored one by one at ascending addresses from `a` (R26). -/
def Memory.writeBytes (m : Memory) (a : Nat) : List Byte → Memory
  | [] => m
  | b :: bs => Memory.writeBytes (m.write a b) (a + 1) bs

/-- The `n` bytes at `a` to `a + n - 1`, in ascending order (R26). -/
def Memory.readBytes (m : Memory) (a : Nat) : Nat → List Byte
  | 0 => []
  | n + 1 => m.read a :: Memory.readBytes m (a + 1) n

/-! ## Guards -/

/-- `max(a, 0x1000)`: "the lowest address of the access that is out of range" (R29, R30). -/
def firstAbsent (a : Word) : Word := if a.toNat < Config.memSize then 0x1000 else a

/-- The fetch guard (R31), its three checks in order. -/
def fetchGuard (pc : Word) : Option Fault :=
  if pc.toNat < Config.progBase then some (.addressOutOfRange .fetch pc)
  else if 0xFFF < pc.toNat + 1 then some (.addressOutOfRange .fetch pc)
  else if pc.toNat % 2 = 1 then some (.addressOutOfRange .fetch pc)
  else none

/-- The read guard on the `n` bytes from `a` (R29); reading no byte cannot fault. -/
def readGuard (a : Word) (n : Nat) : Option Fault :=
  if 1 ≤ n ∧ 0xFFF < a.toNat + n - 1 then some (.addressOutOfRange .read (firstAbsent a)) else none

/-- The write guard on the `n >= 1` bytes from `a` (R30), its two checks in order. -/
def writeGuard (a : Word) (n : Nat) : Option Fault :=
  if a.toNat < Config.progBase then some (.addressOutOfRange .write a)
  else if 0xFFF < a.toNat + n - 1 then some (.addressOutOfRange .write (firstAbsent a))
  else none

end Sys2Proof.Machine
end

