-- ==== Sys2Proof/Machine/Ops.lean ====
section
/-! DEFINITION. The named operations over the registers, the PC, the stack and the latches; taking a fault; reset. -/

namespace Sys2Proof.Machine

/-! ## Reads and updates, one per element of state -/

/-- `V[r]` (00_scope.md R7). -/
def State.getV (s : State) (r : Reg) : Byte := s.v[r]

/-- `V[r] <- b`. No register is hard-wired (10_state.md R8). -/
def State.setV (s : State) (r : Reg) (b : Byte) : State := { s with v := s.v.set r b }

/-- All the `V` registers at once (the block load). -/
def State.setRegs (s : State) (v : Vector Byte 16) : State := { s with v := v }

/-- `I <- w` -/
def State.setI (s : State) (w : Word) : State := { s with i := w }

/-- `PC <- w`: not checked here, the next fetch checks it (10_state.md R11). -/
def State.setPc (s : State) (w : Word) : State := { s with pc := w }

/-- `Mem <- m` -/
def State.setMem (s : State) (m : Memory) : State := { s with mem := m }

/-- `FB <- f` -/
def State.setFb (s : State) (f : FrameBuffer) : State := { s with fb := f }

/-- `DT <- b` -/
def State.setDt (s : State) (b : Byte) : State := { s with dt := b }

/-- `ST <- b` -/
def State.setSt (s : State) (b : Byte) : State := { s with st := b }

/-- `K[k] <- p` -/
def State.setKeyCell (s : State) (k : Key) (p : Bool) : State := { s with keys := s.keys.set k p }

/-- `FAULT <- f` -/
def State.setFault (s : State) (f : Fault) : State := { s with fault := some f }

/-- The draw of this `RND` is used up (log entry 4). -/
def State.nextDraw (s : State) : State := { s with draws := s.draws + 1 }

/-! ## The program counter (40_control_flow.md R48) -/

/-- Sequential: `PC <- (PC + 2) mod 65536`. -/
def State.advance (s : State) : State := s.setPc (s.pc + 2)

/-- Skip: `PC <- (PC + 4) mod 65536` if the condition holds, else `PC <- (PC + 2) mod 65536`. -/
def State.skipIf (s : State) (condition : Bool) : State := if condition then s.setPc (s.pc + 4) else s.advance

/-! ## The call stack (10_state.md R12) -/

/-- Push: `Stack[SP] <- value; SP <- SP + 1`; none when `SP = 16`. -/
def State.push (s : State) (value : Word) : Option State :=
  if h : s.sp.val < 16 then some { s with stack := s.stack.set s.sp.val value, sp := ⟨s.sp.val + 1, by omega⟩ }
  else none

/-- Pop: `SP <- SP - 1; value = Stack[SP]`, the slot keeping its contents; none when `SP = 0`. -/
def State.pop (s : State) : Option (Word × State) :=
  if _h : 0 < s.sp.val then some (s.stack[s.sp.val - 1], { s with sp := ⟨s.sp.val - 1, by omega⟩ })
  else none

/-! ## Faults (60_exceptions.md R95) -/

/-- TAKING A FAULT: "the whole effect of that `STEP` is `FAULT <- (kind, info)`. No other state changes". Control goes
nowhere: there is no vector and no saved register (log entry 1). -/
def State.raise (s : State) (f : Fault) : Result := .next (s.setFault f)

/-- Guards come before effects (20_memory.md R32): the fault of the guard, or else the effect. -/
def State.guarded (s : State) (guard : Option Fault) (effect : State) : Result :=
  match guard with
  | some f => s.raise f
  | none => .next effect

/-! ## Reset: the way out of a fault (60_exceptions.md R99: there is no return from one) -/

/-- `INITIALIZE` (70_reset_and_hazards.md R108): every element of state at its reset value. The model's own two fields are
the host's coming events and the counter of free draws, which no reset touches (log entries 2, 4). -/
def State.initMachine (s : State) : State := { State.reset with draws := s.draws, schedule := s.schedule }

/-! ## Fetch -/

/-- `MemRead(PC, 2)`: the byte at the lower address is the high byte (20_memory.md R25, R28). -/
def State.fetchWord (s : State) : Word := joinBytes (s.mem.read s.pc.toNat) (s.mem.read (s.pc.toNat + 1))

/-- Steps 2 to 4 of the `STEP` algorithm (30_encoding.md R47): guard, read, decode; the fault, or the instruction. -/
def State.fetch (s : State) : Except Fault Instr :=
  match fetchGuard s.pc with
  | some f => .error f
  | none =>
    match decodeWord s.fetchWord with
    | .ok i => .ok i
    | .error _ => .error (.unknownOpcode s.fetchWord s.pc)

/-! ## The host's next event (log entry 2) -/

/-- The event that the next `step` performs: the first of the schedule, a `STEP` when it is empty. -/
def State.nextEvent (s : State) : Event :=
  match s.schedule with
  | [] => .step
  | e :: _ => e

/-- The state with that event taken off the schedule. -/
def State.popEvent (s : State) : State := { s with schedule := s.schedule.tail }

end Sys2Proof.Machine
end

