-- ==== Sys2Proof/Machine/Flags.lean ====
section
/-! DEFINITION. The flag computations (10_state.md R9, 42_arith_logic.md R66): each is exactly `0x00` or `0x01`. -/

namespace Sys2Proof.Machine

/-- A flag value: "`V[0xF]` to 1 or 0" (R9). -/
def flagByte (b : Bool) : Byte := if b then 0x01 else 0x00

/-- The carry out of bit 7: `a + b > 255` (R71, decision D17). -/
def carryFlag (a b : Byte) : Byte := flagByte (decide (255 < a.toNat + b.toNat))

/-- No borrow in `a - b`: `a >= b` (R72, R74, decision D17). -/
def notBorrowFlag (a b : Byte) : Byte := flagByte (decide (b.toNat ≤ a.toNat))

/-- The bit shifted out to the right: `a[0]` (R73). -/
def shiftedOutRight (a : Byte) : Byte := flagByte (a.getLsbD 0)

/-- The bit shifted out to the left: `a[7]` (R75). -/
def shiftedOutLeft (a : Byte) : Byte := flagByte (a.getLsbD 7)

/-- The order of a flag-defining instruction (R66, decision D18): the result, then the flag, which wins when `X = 15`. -/
def State.setResultAndFlag (s : State) (x : Reg) (result flag : Byte) : State :=
  (s.setV x result).setV Config.flagReg flag

end Sys2Proof.Machine
end

