-- ==== Sys2Proof/Machine/Operands.lean ====
section
/-! DEFINITION. The operand forms (30_encoding.md R41, 41_load_store.md R65): zero-extended immediates, the effective address
through `I`, the low nibble of a register, the screen coordinates, the registers of a block transfer, the BCD digits. -/

namespace Sys2Proof.Machine

/-- `zext_16(NNN)` (R41). -/
def zext12 (nnn : Addr) : Word := nnn.setWidth 16

/-- `zext_16(b)` of an 8-bit value. -/
def zext8 (b : Byte) : Word := b.setWidth 16

/-- The effective address of byte `k` of a data access: `I + k`, "computed without truncation" (R65). -/
def State.dataAddress (s : State) (k : Nat) : Nat := s.i.toNat + k

/-- `V[X] & 0x0F`: the glyph of `LD F` (R64, decision D19), the key of `SKP` and `SKNP` (decision D20). -/
def lowNibble (b : Byte) : Fin 16 := ⟨b.toNat % 16, Nat.mod_lt _ (by decide)⟩

/-- The address of the glyph of a hex digit: `FONT_BASE + 5 * d` (20_memory.md R24, R64). -/
def glyphAddress (d : Fin 16) : Word := BitVec.ofNat 16 (Config.fontBase + 5 * d.val)

/-- `V[X] mod 64`: the start column of a sprite (43_display.md R80). -/
def startColumn (b : Byte) : Nat := b.toNat % 64

/-- `V[Y] mod 32`: the start row of a sprite (R80). -/
def startRow (b : Byte) : Nat := b.toNat % 32

/-- The count `X + 1` of a block transfer (R61, R62). -/
def blockCount (x : Reg) : Nat := x.val + 1

/-- The bytes `V[0]` to `V[X]` (R61). -/
def State.regBlock (s : State) (x : Reg) : List Byte := s.v.toList.take (blockCount x)

/-- `for i = 0, 1, ..., X: V[i] <- bytes[i]` (R62). -/
def loadBlock (v : Vector Byte 16) (k : Nat) : List Byte → Vector Byte 16
  | [] => v
  | b :: bs => loadBlock (v.setIfInBounds k b) (k + 1) bs

/-- The three decimal digits of a byte, hundreds first, one whole byte each (R63). -/
def bcdDigits (b : Byte) : List Byte :=
  [BitVec.ofNat 8 (b.toNat / 100), BitVec.ofNat 8 (b.toNat / 10 % 10), BitVec.ofNat 8 (b.toNat % 10)]

/-- The least key number that is pressed (45_input.md R87, decision D21). -/
def State.leastKey (s : State) : Option Nat := s.keys.toList.findIdx? id

end Sys2Proof.Machine
end

