-- ==== Sys2Proof/Machine/Arith.lean ====
section
/-! DEFINITION. Arithmetic and logic (42_arith_logic.md): unsigned, results truncated to 8 bits (to 16 bits for `I`), operands
read before any write, the flag written last (R66). -/

namespace Sys2Proof.Machine

/-- `ADD Vx, nn`: `V[X] <- (V[X] + NN) mod 256`, no flag (R67). -/
def execAddImm (x : Reg) (nn : Byte) (s : State) : Result := .next (s.setV x (s.getV x + nn)).advance

/-- `OR Vx, Vy` (R68, decision D16: `VF` untouched). -/
def execOrReg (x y : Reg) (s : State) : Result := .next (s.setV x (s.getV x ||| s.getV y)).advance

/-- `AND Vx, Vy` (R69, decision D16: `VF` untouched). -/
def execAndReg (x y : Reg) (s : State) : Result := .next (s.setV x (s.getV x &&& s.getV y)).advance

/-- `XOR Vx, Vy` (R70, decision D16: `VF` untouched). -/
def execXorReg (x y : Reg) (s : State) : Result := .next (s.setV x (s.getV x ^^^ s.getV y)).advance

/-- `ADD Vx, Vy`: the sum, `VF` = carry (R71). -/
def execAddReg (x y : Reg) (s : State) : Result :=
  .next (s.setResultAndFlag x (s.getV x + s.getV y) (carryFlag (s.getV x) (s.getV y))).advance

/-- `SUB Vx, Vy`: `V[X] - V[Y]`, `VF` = not-borrow (R72). -/
def execSubReg (x y : Reg) (s : State) : Result :=
  .next (s.setResultAndFlag x (s.getV x - s.getV y) (notBorrowFlag (s.getV x) (s.getV y))).advance

/-- `SHR Vx`: `V[X] >> 1`, `VF` = the bit shifted out; the `Y` field is ignored (R73, decision D13). -/
def execShr (x _y : Reg) (s : State) : Result :=
  .next (s.setResultAndFlag x (s.getV x >>> 1) (shiftedOutRight (s.getV x))).advance

/-- `SUBN Vx, Vy`: `V[Y] - V[X]` into `V[X]`, `VF` = not-borrow (R74). -/
def execSubnReg (x y : Reg) (s : State) : Result :=
  .next (s.setResultAndFlag x (s.getV y - s.getV x) (notBorrowFlag (s.getV y) (s.getV x))).advance

/-- `SHL Vx`: `(V[X] << 1) mod 256`, `VF` = the bit shifted out; the `Y` field is ignored (R75, decision D13). -/
def execShl (x _y : Reg) (s : State) : Result :=
  .next (s.setResultAndFlag x (s.getV x <<< 1) (shiftedOutLeft (s.getV x))).advance

/-- `RND Vx, nn`: `V[X] <- r & NN`, `r` the free draw of this `STEP` (R76, decision D24; log entry 4). -/
def execRnd (x : Reg) (nn : Byte) (s : State) : Result :=
  .next ((s.setV x (Config.freeDraw s.draws &&& nn)).nextDraw).advance

/-- `ADD I, Vx`: `I <- (I + zext_16(V[X])) mod 65536`, `VF` untouched (R77, decision D12). -/
def execAddI (x : Reg) (s : State) : Result := .next (s.setI (s.i + zext8 (s.getV x))).advance

end Sys2Proof.Machine
end

