-- ==== Sys2Proof/Machine/ControlFlow.lean ====
section
/-! DEFINITION. Control flow (40_control_flow.md). -/

namespace Sys2Proof.Machine

/-- `JP nnn`: `PC <- zext_16(NNN)` (R49). -/
def execJp (nnn : Addr) (s : State) : Result := .next (s.setPc (zext12 nnn))

/-- `CALL nnn`: push `PC + 2`, `PC <- zext_16(NNN)`; `StackOverflow(PC)` when `SP = 16` (R50, decisions D25, D26). -/
def execCall (nnn : Addr) (s : State) : Result :=
  match s.push (s.pc + 2) with
  | some t => .next (t.setPc (zext12 nnn))
  | none => s.raise (.stackOverflow s.pc)

/-- `RET`: `PC` takes the popped value, no `+2`; `StackUnderflow(PC)` when `SP = 0` (R51). -/
def execRet (s : State) : Result :=
  match s.pop with
  | some (value, t) => .next (t.setPc value)
  | none => s.raise (.stackUnderflow s.pc)

/-- `JP V0, nnn`: `PC <- (zext_16(NNN) + zext_16(V[0])) mod 65536` (R52, decision D15). -/
def execJpV0 (nnn : Addr) (s : State) : Result := .next (s.setPc (zext12 nnn + zext8 (s.getV 0)))

/-- `SE Vx, nn`: skip if `V[X] = NN` (R53). -/
def execSeImm (x : Reg) (nn : Byte) (s : State) : Result := .next (s.skipIf (s.getV x == nn))

/-- `SNE Vx, nn`: skip if `V[X] != NN` (R54). -/
def execSneImm (x : Reg) (nn : Byte) (s : State) : Result := .next (s.skipIf (s.getV x != nn))

/-- `SE Vx, Vy`: skip if `V[X] = V[Y]` (R55). -/
def execSeReg (x y : Reg) (s : State) : Result := .next (s.skipIf (s.getV x == s.getV y))

/-- `SNE Vx, Vy`: skip if `V[X] != V[Y]` (R56). -/
def execSneReg (x y : Reg) (s : State) : Result := .next (s.skipIf (s.getV x != s.getV y))

end Sys2Proof.Machine
end

