-- ==== Sys2Proof/Machine/Display.lean ====
section
/-! DEFINITION. The framebuffer and its sprite blitter (43_display.md). -/

namespace Sys2Proof.Machine

/-- `FB[y mod 32][x mod 64]`: "Both coordinates wrap" (R78). -/
def FrameBuffer.pixel (fb : FrameBuffer) (x y : Nat) : Bool :=
  (fb[y % 32]'(Nat.mod_lt _ (by decide)))[x % 64]'(Nat.mod_lt _ (by decide))

/-- `FB[y mod 32][x mod 64] <- b` -/
def FrameBuffer.setPixel (fb : FrameBuffer) (x y : Nat) (b : Bool) : FrameBuffer :=
  fb.set (y % 32) ((fb[y % 32]'(Nat.mod_lt _ (by decide))).set (x % 64) b (Nat.mod_lt _ (by decide))) (Nat.mod_lt _ (by decide))

/-- All pixels 0. -/
def FrameBuffer.clear : FrameBuffer := Vector.replicate 32 (Vector.replicate 64 false)

/-- A drawing in progress: the pixels, and whether one went from 1 to 0 so far. -/
abbrev Canvas := FrameBuffer × Bool

/-- One sprite bit at `(x, y)` (R80): a 0 leaves the pixel alone, a 1 inverts it and collides with a pixel that was 1. -/
def drawBit (bit : Bool) (x y : Nat) (d : Canvas) : Canvas :=
  if bit then (FrameBuffer.setPixel d.1 x y (!FrameBuffer.pixel d.1 x y), d.2 || FrameBuffer.pixel d.1 x y) else d

/-- Bit `7 - c` of a sprite byte: column offset `c`, bit 7 leftmost (R78, decision D22). -/
def spriteBit (b : Byte) (c : Nat) : Bool := b.getLsbD (7 - c)

/-- The columns `c` to 7 of one sprite row: `n` columns are left. -/
def drawColumns (b : Byte) (x y : Nat) (c : Nat) : Nat → Canvas → Canvas
  | 0, d => d
  | n + 1, d => drawColumns b x y (c + 1) n (drawBit (spriteBit b c) (x + c) y d)

/-- One row of a sprite, 8 pixels wide. -/
def drawRow (b : Byte) (x y : Nat) (d : Canvas) : Canvas := drawColumns b x y 0 8 d

/-- The rows of a sprite from the top, one byte each. -/
def drawSprite (x y : Nat) : List Byte → Canvas → Canvas
  | [], d => d
  | b :: bs, d => drawSprite x (y + 1) bs (drawRow b x y d)

/-- The `N` bytes at `I`: the rows of the sprite that `DRW` draws (R78, R80). -/
def State.spriteRows (s : State) (n : Nibble) : List Byte := s.mem.readBytes (s.dataAddress 0) n.toNat

/-- The whole drawing of a `DRW Vx, Vy, n` in the state `s`. -/
def State.drawn (s : State) (x y : Reg) (n : Nibble) : Canvas :=
  drawSprite (startColumn (s.getV x)) (startRow (s.getV y)) (s.spriteRows n) (s.fb, false)

/-- `CLS`: all 2048 pixels 0 (R79). -/
def execCls (s : State) : Result := .next (s.setFb FrameBuffer.clear).advance

/-- `DRW Vx, Vy, n`: XOR the sprite onto the framebuffer, `VF` = collision, after the read guard (R80; `N = 0` decision D23). -/
def execDrw (x y : Reg) (n : Nibble) (s : State) : Result :=
  s.guarded (readGuard s.i n.toNat)
    ((s.setFb (s.drawn x y n).1).setV Config.flagReg (flagByte (s.drawn x y n).2)).advance

end Sys2Proof.Machine
end

