-- ==== Sys2Proof/Machine/Input.lean ====
section
/-! DEFINITION. The input instructions (45_input.md) and the write port of the latch (60_exceptions.md R104). -/

namespace Sys2Proof.Machine

/-- `K[k] = 1` -/
def State.keyPressed (s : State) (k : Key) : Bool := s.keys[k]

/-- `SKP Vx`: skip if the key named by the low nibble of `V[X]` is pressed (R85, decision D20). -/
def execSkp (x : Reg) (s : State) : Result := .next (s.skipIf (s.keyPressed (lowNibble (s.getV x))))

/-- `SKNP Vx`: skip if the key named by the low nibble of `V[X]` is not pressed (R86, decision D20). -/
def execSknp (x : Reg) (s : State) : Result := .next (s.skipIf (!s.keyPressed (lowNibble (s.getV x))))

/-- `LD Vx, K`: the least pressed key into `V[X]`; with no key pressed "change nothing; PC unchanged" (R87, decision D21). -/
def execLdVxK (x : Reg) (s : State) : Result :=
  match s.leastKey with
  | some k => .next (s.setV x (BitVec.ofNat 8 k)).advance
  | none => .next s

/-- The `SETKEY(index, pressed)` event (R104). -/
def State.setKey (s : State) (index : Key) (pressed : Bool) : State := s.setKeyCell index pressed

end Sys2Proof.Machine
end

