-- ==== Sys2Proof/Machine/LoadStore.lean ====
section
/-! DEFINITION. Load and store (41_load_store.md). -/

namespace Sys2Proof.Machine

/-- `LD Vx, nn`: `V[X] <- NN` (R58). -/
def execLdImm (x : Reg) (nn : Byte) (s : State) : Result := .next (s.setV x nn).advance

/-- `LD Vx, Vy`: `V[X] <- V[Y]` (R59). -/
def execLdReg (x y : Reg) (s : State) : Result := .next (s.setV x (s.getV y)).advance

/-- `LD I, nnn`: `I <- zext_16(NNN)` (R60). -/
def execLdI (nnn : Addr) (s : State) : Result := .next (s.setI (zext12 nnn)).advance

/-- `LD F, Vx`: `I <- FONT_BASE + 5 * (V[X] & 0x0F)` (R64, decisions D4, D19). -/
def execLdF (x : Reg) (s : State) : Result := .next (s.setI (glyphAddress (lowNibble (s.getV x)))).advance

/-- `LD B, Vx`: the three decimal digits of `V[X]` to `Mem[I]`, `Mem[I+1]`, `Mem[I+2]`, after the write guard (R63). -/
def execLdB (x : Reg) (s : State) : Result :=
  s.guarded (writeGuard s.i 3) (s.setMem (s.mem.writeBytes (s.dataAddress 0) (bcdDigits (s.getV x)))).advance

/-- `LD [I], Vx`: `V[0]` to `V[X]` to `Mem[I]` to `Mem[I+X]`, after the write guard; `I` unchanged (R61, decision D14). -/
def execLdMiVx (x : Reg) (s : State) : Result :=
  s.guarded (writeGuard s.i (blockCount x)) (s.setMem (s.mem.writeBytes (s.dataAddress 0) (s.regBlock x))).advance

/-- `LD Vx, [I]`: `Mem[I]` to `Mem[I+X]` to `V[0]` to `V[X]`, after the read guard; `I` unchanged (R62, decision D14). -/
def execLdVxMi (x : Reg) (s : State) : Result :=
  s.guarded (readGuard s.i (blockCount x))
    (s.setRegs (loadBlock s.v 0 (s.mem.readBytes (s.dataAddress 0) (blockCount x)))).advance

end Sys2Proof.Machine
end

