-- ==== Sys2Proof/Machine/Timers.lean ====
section
/-! DEFINITION. The timer instructions (44_timers.md) and the countdown of the timer bank (60_exceptions.md R101). -/

namespace Sys2Proof.Machine

/-- `LD Vx, DT`: `V[X] <- DT` (R82). -/
def execLdVxDt (x : Reg) (s : State) : Result := .next (s.setV x s.dt).advance

/-- `LD DT, Vx`: `DT <- V[X]` (R83). -/
def execLdDtVx (x : Reg) (s : State) : Result := .next (s.setDt (s.getV x)).advance

/-- `LD ST, Vx`: `ST <- V[X]` (R84). -/
def execLdStVx (x : Reg) (s : State) : Result := .next (s.setSt (s.getV x)).advance

/-- One countdown of one timer: "if nonzero (floor at 0)" (R101). -/
def countDown (b : Byte) : Byte := if b = 0 then 0 else b - 1

/-- The `TICK` event: both timers at once (R101). -/
def State.tick (s : State) : State := (s.setDt (countDown s.dt)).setSt (countDown s.st)

end Sys2Proof.Machine
end

