-- ==== Sys2Proof/Machine/Events.lean ====
section
/-! DEFINITION. The `STEP` event: the algorithm of 30_encoding.md R47; and when an event is defined at all. -/

namespace Sys2Proof.Machine

/-- One `STEP` event (R47): halted, it changes nothing (step 1, 60_exceptions.md R96); else fetch and decode (steps 2 to 4),
a fault being taken; else execute (step 5). -/
def stepEvent (s : State) : Host.Outcome State Fault Refusal :=
  match s.fault with
  | some _ => .next s
  | none =>
    match s.fetch with
    | .error f => s.raise f
    | .ok i => exec i s

/-- An event that is defined only after the first reset (70_reset_and_hazards.md R110). -/
def onceReset (s : State) (r : Host.Outcome State Fault Refusal) : Host.Outcome State Fault Refusal :=
  if s.ready then r else .refused .beforeFirstReset

end Sys2Proof.Machine
end

