-- ==== Sys2Proof/Machine/Reset.lean ====
section
/-! DEFINITION. The `LOAD` event (70_reset_and_hazards.md R109). `INITIALIZE` is `State.initMachine` of Machine/Ops.lean. -/

namespace Sys2Proof.Machine

/-- The program fits: "`len > 3584`" is rejected (R109). -/
def programFits (bytes : List Byte) : Bool := decide (bytes.length ≤ Config.progMax)

/-- `LOAD(bytes)`: `INITIALIZE`, then the bytes at `0x200`; a program that is too large changes nothing (R109, decision D30). -/
def State.load (s : State) (bytes : List Byte) : State :=
  if programFits bytes then (s.initMachine).setMem (s.initMachine.mem.writeBytes Config.progBase bytes) else s

end Sys2Proof.Machine
end

