-- ==== Sys2Proof/Machine/Step.lean ====
section
/-! DEFINITION. The one step function: the host's next event is performed. -/

namespace Sys2Proof.Machine

/-- One step of the machine: the next event of the schedule, a `STEP` when the schedule is empty (log entry 2). -/
def step (s : State) : Host.Outcome State Fault Refusal :=
  match s.nextEvent with
  | .init => .next s.popEvent.initMachine
  | .load bytes => .next (s.popEvent.load bytes)
  | .step => onceReset s (stepEvent s.popEvent)
  | .tick => onceReset s (.next s.popEvent.tick)
  | .setKey index pressed => onceReset s (.next (s.popEvent.setKey index pressed))

/-- `s` with the instruction of the word `w` at the address where `step` fetches next, and the machine ready to fetch it: a
`STEP` next, not halted, `PC` a legal fetch address (log entry 12). -/
def State.withFetchWord (s : State) (nbits w : Nat) : State :=
  let op : Word := BitVec.ofNat 16 (w % 2 ^ nbits)
  let pc : Word := match fetchGuard s.pc with
    | none => s.pc
    | some _ => 0x0200
  { s with
    pc := pc
    mem := s.mem.writeBytes pc.toNat [highByte op, lowByte op]
    fault := none
    ready := true
    schedule := [] }

end Sys2Proof.Machine
end

