-- ==== Sys2Proof/Machine/Outputs.lean ====
section
/-! DEFINITION. What the host observes: the outputs `FB`, `ST`, `tone`, `FAULT` (00_scope.md R4), the results of a `STEP`
(30_encoding.md R47) and of a `LOAD` (60_exceptions.md R94), and the predicate "stalled" (45_input.md R88). None is stored. -/

namespace Sys2Proof.Machine

/-- `tone = 1 if ST != 0 else 0` (60_exceptions.md R103). -/
def State.tone (s : State) : Bool := s.st != 0

/-- The pixel of column `x`, row `y` (R105). -/
def State.pixelOut (s : State) (x : Fin 64) (y : Fin 32) : Bool := s.fb[y][x]

/-- The framebuffer as the flat array `pixels[64*32]`, the pixel `(x, y)` at `y * 64 + x` (10_state.md R15, decision D22). -/
def State.pixels (s : State) : List Bool := (s.fb.toList.map Vector.toList).flatten

/-- The numeric code of a fault record (60_exceptions.md R89, decision D27). -/
def Fault.code : Fault → Nat
  | .addressOutOfRange _ _ => 1
  | .unknownOpcode _ _ => 2
  | .stackOverflow _ => 3
  | .stackUnderflow _ => 4

/-- The numeric code of the `FAULT` output: 0 for `none` (R89). -/
def State.faultCode (s : State) : Nat := (s.fault.map Fault.code).getD 0

/-- *Stalled* (R88): not halted, the fetch guard passes, the word at `PC` is `FX0A`, and no key is pressed. -/
def State.stalled (s : State) : Bool :=
  s.fault.isNone && (fetchGuard s.pc).isNone && (s.fetchWord &&& 0xF0FF == 0xF00A) && s.keys.toList.all (· == false)

/-- The result of a `STEP` (R47 step 6). -/
inductive StepResult where
  /-- the instruction was executed -/
  | ok
  /-- the instruction is `LD Vx, K` and no key is pressed (R87) -/
  | stalled
  /-- a fault was raised, or the machine was already halted (R95, R96) -/
  | fault (record : Fault)
deriving DecidableEq, Repr

/-- The result of the `STEP` raised at `s` (log entry 6): the record in `FAULT` afterwards, else `stalled` or `ok`; none
before the first reset, where a `STEP` has no meaning (70_reset_and_hazards.md R110). -/
def State.stepResult (s : State) : Option StepResult :=
  match onceReset s (stepEvent s) with
  | .next t =>
    match t.fault with
    | some f => some (.fault f)
    | none => if s.stalled then some .stalled else some .ok
  | .fault f => some (.fault f)
  | .refused _ => none

/-- The result of a `LOAD` (R94, R109). -/
inductive LoadResult where
  /-- the program was installed -/
  | ok
  /-- the fifth fault kind: the program is longer than 3584 bytes and was rejected; never stored in `FAULT` -/
  | programTooLarge (len : Nat)
deriving DecidableEq, Repr

/-- `LOAD(bytes)` answers `ProgramTooLarge(len)` when `len > 3584`, else `ok` (R94, R109; log entry 7). -/
def loadResult (bytes : List Byte) : LoadResult :=
  if programFits bytes then .ok else .programTooLarge bytes.length

/-- The numeric code of a `LOAD` result: 5 for `ProgramTooLarge` (R89); DEDUCED: 0, the code of `none`, for `ok` (log entry 7). -/
def LoadResult.code : LoadResult → Nat
  | .ok => 0
  | .programTooLarge _ => 5

end Sys2Proof.Machine
end

