-- ==== Sys2Proof/Safety.lean ====
section
/-! DEFINITION. The terms in which claims are stated: the parts of the state and what an instruction may change of them
(10_state.md R21), the invariant of the machine, a good state and a safe run, the end of a run, the pixels a sprite covers. -/

namespace Sys2Proof.Machine

/-! ## The parts of the state, and frames -/

/-- The name of one observable part of `State`: every element of 10_state.md R20, one register, slot, pixel, key cell or byte
at a time, and the fields of the model's own. -/
inductive Part where
  | v (r : Reg)
  | i
  | pc
  | sp
  | slot (k : Fin 16)
  | dt
  | st
  | pixel (y : Fin 32) (x : Fin 64)
  | key (k : Key)
  | fault
  | byte (a : Nat)
  | ready
  | draws
  | schedule
deriving DecidableEq, Repr

/-- Two states agree on a part; on a byte of memory, when reading it gives the same in both. -/
def Part.Same (s t : State) : Part → Prop
  | .v r => t.getV r = s.getV r
  | .i => t.i = s.i
  | .pc => t.pc = s.pc
  | .sp => t.sp = s.sp
  | .slot k => t.stack[k] = s.stack[k]
  | .dt => t.dt = s.dt
  | .st => t.st = s.st
  | .pixel y x => t.fb[y][x] = s.fb[y][x]
  | .key k => t.keys[k] = s.keys[k]
  | .fault => t.fault = s.fault
  | .byte a => t.mem.read a = s.mem.read a
  | .ready => t.ready = s.ready
  | .draws => t.draws = s.draws
  | .schedule => t.schedule = s.schedule

/-- THE FRAME: from `s` to `t` no part has changed but those that `changed` allows. -/
def OnlyChanges (s t : State) (changed : Part → Prop) : Prop := ∀ p : Part, ¬ changed p → Part.Same s t p

/-- The byte `a` is one of the `n` bytes that a store through `I` writes in the state `s` (20_memory.md R26). -/
def StoredByte (s : State) (n a : Nat) : Prop := s.dataAddress 0 ≤ a ∧ a < s.dataAddress 0 + n

/-- The write columns of the access matrix (10_state.md R21), with `FAULT` where the instruction has a fault condition
(60_exceptions.md R97), and the counter of free draws for `RND`. The column entry `F` is `V[15]`. -/
def Writes (i : Instr) (s : State) (p : Part) : Prop :=
  p = .pc ∨
  match i with
  | .cls => ∃ y x, p = .pixel y x
  | .ret => p = .sp ∨ p = .fault
  | .jp _ => False
  | .call _ => p = .sp ∨ p = .fault ∨ ∃ k : Fin 16, p = .slot k ∧ k.val = s.sp.val
  | .seImm _ _ => False
  | .sneImm _ _ => False
  | .seReg _ _ => False
  | .ldImm x _ => p = .v x
  | .addImm x _ => p = .v x
  | .ldReg x _ => p = .v x
  | .orReg x _ => p = .v x
  | .andReg x _ => p = .v x
  | .xorReg x _ => p = .v x
  | .addReg x _ => p = .v x ∨ p = .v 15
  | .subReg x _ => p = .v x ∨ p = .v 15
  | .shr x _ => p = .v x ∨ p = .v 15
  | .subnReg x _ => p = .v x ∨ p = .v 15
  | .shl x _ => p = .v x ∨ p = .v 15
  | .sneReg _ _ => False
  | .ldI _ => p = .i
  | .jpV0 _ => False
  | .rnd x _ => p = .v x ∨ p = .draws
  | .drw _ _ _ => p = .v 15 ∨ p = .fault ∨ ∃ y x, p = .pixel y x
  | .skp _ => False
  | .sknp _ => False
  | .ldVxDt x => p = .v x
  | .ldVxK x => p = .v x
  | .ldDtVx _ => p = .dt
  | .ldStVx _ => p = .st
  | .addI _ => p = .i
  | .ldF _ => p = .i
  | .ldB _ => p = .fault ∨ ∃ a, p = .byte a ∧ StoredByte s 3 a
  | .ldMiVx x => p = .fault ∨ ∃ a, p = .byte a ∧ StoredByte s (blockCount x) a
  | .ldVxMi x => p = .fault ∨ ∃ r, p = .v r ∧ r ≤ x

/-! ## Which instructions write what (the prose of 10_state.md) -/

/-- `i` writes `V[r]` as an ordinary destination: `r` is its `X` field, or one of `V[0]` to `V[X]` for the block load
(10_state.md R8, R9, R21). The flag of a flag-defining instruction is `FlagWriter`'s. -/
def Destination (i : Instr) (r : Reg) : Prop :=
  match i with
  | .ldImm x _ | .addImm x _ | .rnd x _ => r = x
  | .ldReg x _ | .orReg x _ | .andReg x _ | .xorReg x _ => r = x
  | .addReg x _ | .subReg x _ | .shr x _ | .subnReg x _ | .shl x _ => r = x
  | .ldVxDt x | .ldVxK x => r = x
  | .ldVxMi x => r ≤ x
  | .cls | .ret | .jp _ | .call _ | .seImm _ _ | .sneImm _ _ | .seReg _ _ | .sneReg _ _ | .ldI _ | .jpV0 _ => False
  | .drw _ _ _ | .skp _ | .sknp _ | .ldDtVx _ | .ldStVx _ | .addI _ | .ldF _ | .ldB _ | .ldMiVx _ => False

/-- "The instructions that write `VF` as a flag are exactly six" (10_state.md R9). -/
def FlagWriter (i : Instr) : Prop :=
  match i with
  | .addReg _ _ | .subReg _ _ | .subnReg _ _ | .shr _ _ | .shl _ _ | .drw _ _ _ => True
  | .cls | .ret | .jp _ | .call _ | .seImm _ _ | .sneImm _ _ | .seReg _ _ | .sneReg _ _ | .ldI _ | .jpV0 _ => False
  | .ldImm _ _ | .addImm _ _ | .rnd _ _ | .ldReg _ _ | .orReg _ _ | .andReg _ _ | .xorReg _ _ => False
  | .skp _ | .sknp _ | .ldVxDt _ | .ldVxK _ | .ldDtVx _ | .ldStVx _ | .addI _ | .ldF _ | .ldB _ | .ldMiVx _ | .ldVxMi _ => False

/-- The instructions with a fault condition of their own (60_exceptions.md R97). -/
def HasFaultCondition (i : Instr) : Prop :=
  match i with
  | .call _ | .ret | .drw _ _ _ | .ldB _ | .ldMiVx _ | .ldVxMi _ => True
  | .cls | .jp _ | .seImm _ _ | .sneImm _ _ | .seReg _ _ | .sneReg _ _ | .ldI _ | .jpV0 _ => False
  | .ldImm _ _ | .addImm _ _ | .rnd _ _ | .ldReg _ _ | .orReg _ _ | .andReg _ _ | .xorReg _ _ => False
  | .addReg _ _ | .subReg _ _ | .shr _ _ | .subnReg _ _ | .shl _ _ => False
  | .skp _ | .sknp _ | .ldVxDt _ | .ldVxK _ | .ldDtVx _ | .ldStVx _ | .addI _ | .ldF _ => False

/-- The kinds of the one write of `PC` (40_control_flow.md R48). -/
inductive PcKind where
  /-- `PC <- (PC + 2) mod 65536` -/
  | sequential
  /-- `PC <- target` -/
  | direct
  /-- `PC <- (PC + 4) mod 65536` or `PC <- (PC + 2) mod 65536` -/
  | skip
deriving DecidableEq, Repr

/-- The kind of each instruction, by the table of R48; `LD Vx, K` is sequential when a key is pressed and else holds `PC`. -/
def pcKind (i : Instr) : PcKind :=
  match i with
  | .jp _ | .call _ | .ret | .jpV0 _ => .direct
  | .seImm _ _ | .sneImm _ _ | .seReg _ _ | .sneReg _ _ | .skp _ | .sknp _ => .skip
  | .cls | .ldI _ | .ldImm _ _ | .addImm _ _ | .rnd _ _ | .ldReg _ _ | .orReg _ _ | .andReg _ _ | .xorReg _ _ => .sequential
  | .addReg _ _ | .subReg _ _ | .shr _ _ | .subnReg _ _ | .shl _ _ | .drw _ _ _ | .ldVxDt _ | .ldVxK _ => .sequential
  | .ldDtVx _ | .ldStVx _ | .addI _ | .ldF _ | .ldB _ | .ldMiVx _ | .ldVxMi _ => .sequential

/-! ## The invariant -/

/-- What every step keeps: memory is in canonical form, the reserved region holds its reset contents (20_memory.md R23, R24),
every slot of the stack is at most `0x1000` (40_control_flow.md R50) and `PC` is at most `0x10FE` (10_state.md R11). -/
def State.Inv (s : State) : Prop :=
  s.mem.wf = true ∧ s.mem.reservedIntact = true ∧ (∀ k : Fin 16, s.stack[k].toNat ≤ 0x1000) ∧ s.pc.toNat ≤ 0x10FE

/-! ## Good states, safe runs, the end of a run -/

/-- A state a good run passes through: reset has happened and no fault is latched ("A faulted state is never a good final
state", 60_exceptions.md R96). -/
def State.Good (s : State) : Prop := s.ready = true ∧ s.fault = none

/-- The first `k` steps from `s` all lead to good states. -/
def SafeRun : Nat → State → Prop
  | 0, s => s.Good
  | k + 1, s => s.Good ∧ ∃ t, step s = .next t ∧ SafeRun k t

/-- The model's own convention for the end of a run, which no step uses: "the instruction at `PC` is `1NNN` with `NNN = PC`,
and `FAULT = none`" (70_reset_and_hazards.md R112, decision D36; log entry 11). -/
def State.AtSelfJump (s : State) : Prop := s.fault = none ∧ ∃ nnn, s.fetch = .ok (.jp nnn) ∧ zext12 nnn = s.pc

/-! ## Sprites -/

/-- The sprite that `DRW Vx, Vy, n` draws in the state `s` has a 1 bit on the pixel of column `px`, row `py`: the pixel is
column offset `c` and row offset `k` of the start position, both taken round the edges of the screen (43_display.md R78),
and bit `7 - c` of the byte at `I + k` is 1. -/
def SpriteCovers (s : State) (x y : Reg) (n : Nibble) (px : Fin 64) (py : Fin 32) : Prop :=
  ∃ k c : Nat, k < n.toNat ∧ c < 8 ∧ py.val = ((s.getV y).toNat % 32 + k) % 32 ∧ px.val = ((s.getV x).toNat % 64 + c) % 64 ∧
    (s.mem.read (s.i.toNat + k)).getLsbD (7 - c) = true

end Sys2Proof.Machine
end

