-- ==== Sys2Proof/Certificates/Slice0/Obligations.lean ====
section
/-! DEFINITION. The statements for the provers. Each docstring names the rule of the spec it formalises; where a clause rests
on a decision of spec/92_eei_decisions.md or on a choice of the model's own, it says so and names the decision or log entry. -/

open Sys2Proof Sys2Proof.Machine

/-! ## Encoding (30_encoding.md) -/

/-- Words written out from the patterns of R43 decode to the instructions they stand for. -/
def Obligations.SpecWordsDecode : Prop :=
  decodeWord 0x00E0 = .ok .cls ∧ decodeWord 0x00EE = .ok .ret ∧ decodeWord 0x1234 = .ok (.jp 0x234) ∧
  decodeWord 0x6A7F = .ok (.ldImm 10 0x7F) ∧ decodeWord 0x8124 = .ok (.addReg 1 2) ∧ decodeWord 0xA250 = .ok (.ldI 0x250) ∧
  decodeWord 0xD125 = .ok (.drw 1 2 5) ∧ decodeWord 0xE19E = .ok (.skp 1) ∧ decodeWord 0xF307 = .ok (.ldVxDt 3) ∧
  decodeWord 0xF033 = .ok (.ldB 0) ∧ decodeWord 0x0000 = .error (.unknownOpcode 0x0000)

/-- Decoding an encoded instruction gives it back, whatever follows it in memory; every operand at every value its field
admits. The `Y` field that `SHR` and `SHL` ignore is kept (log entry 8). -/
def Obligations.DecodeOfEncode : Prop :=
  ∀ i : Instr, decodeWord (encode i) = .ok i ∧ ∀ rest : List Byte, decodeBytes (encodeBytes i ++ rest) = .ok (i, rest)

/-- Each legal word has one meaning: the word of the instruction it decodes to is that word. By R45 the sixteen words of a
`SHR` or `SHL` that differ in the ignored `Y` field select one instruction; that they come back here as sixteen terms is the
model's choice, which carries the field (log entry 8). -/
def Obligations.EncodeOfDecode : Prop := ∀ (w : Word) (i : Instr), decodeWord w = .ok i → encode i = w

/-- The decoder (R42) and the table of masks and matches (R43) agree: 34 rows that do not overlap, every word of a row
decodes to an instruction with the row's mnemonic, and every word that decodes lies in such a row. Which rows exist and their
patterns are decisions D1 and D2. -/
def Obligations.DecoderMeetsOpcodeTable : Prop :=
  opcodeTable.length = 34 ∧
  (∀ r ∈ opcodeTable, ∀ q ∈ opcodeTable, ∀ w : Word, r.holds w = true → q.holds w = true → r = q) ∧
  (∀ r ∈ opcodeTable, ∀ w : Word, r.holds w = true → ∃ i, decodeWord w = .ok i ∧ i.mnemonic = r.mnemonic) ∧
  (∀ (w : Word) (i : Instr), decodeWord w = .ok i → ∃ r ∈ opcodeTable, r.holds w = true ∧ r.mnemonic = i.mnemonic)

/-- The decoder rejects exactly the words of R44's list, each by name, and accepts every other word (decisions D1, D3). -/
def Obligations.IllegalWordsAreTheListedOnes : Prop :=
  ∀ w : Word,
    (WellFormed.word w = false → decodeWord w = .error (.unknownOpcode w)) ∧
    (WellFormed.word w = true → ∃ i, decodeWord w = .ok i)

/-! ## The STEP algorithm and faults (30_encoding.md R47, 60_exceptions.md) -/

/-- A STEP RUNS THE DECODED INSTRUCTION: when a `STEP` is due on a machine that has been reset and is not halted, `PC` passes
the fetch guard, and the two bytes at `PC` decode to `i`, the step is `exec i`, on the state with that `STEP` taken off the
host's schedule (log entry 2). `exec` sees `PC` still at the instruction. -/
def Obligations.StepRunsTheDecodedInstruction : Prop :=
  ∀ (s : State) (i : Instr), s.nextEvent = .step → s.ready = true → s.fault = none →
    0x200 ≤ s.pc.toNat → s.pc.toNat ≤ 0xFFE → s.pc.toNat % 2 = 0 →
    decodeBytes [s.mem.read s.pc.toNat, s.mem.read (s.pc.toNat + 1)] = .ok (i, []) →
    step s = exec i s.popEvent

/-- The fetch guard (R31): a `PC` below `0x200`, above `0xFFE` or odd makes the `STEP` take `AddressOutOfRange(fetch, PC)` and
change nothing else. The lower bound is decision D10, the parity D11. -/
def Obligations.BadFetchAddressFaults : Prop :=
  ∀ s : State, s.nextEvent = .step → s.ready = true → s.fault = none →
    (s.pc.toNat < 0x200 ∨ 0xFFF < s.pc.toNat + 1 ∨ s.pc.toNat % 2 = 1) →
    ∃ t, step s = .next t ∧ t.fault = some (.addressOutOfRange .fetch s.pc) ∧ OnlyChanges s.popEvent t (fun p => p = .fault)

/-- R91: a fetched word that matches no row of the opcode table makes the `STEP` take `UnknownOpcode(op, pc)`, `op` being the
word at `PC`, high byte first, and `pc` where it was fetched from. That nothing else changes is R95 (decision D28); the event
is taken off the host's schedule (log entry 2). -/
def Obligations.UnknownOpcodeIsReported : Prop :=
  ∀ s : State, s.nextEvent = .step → s.ready = true → s.fault = none →
    0x200 ≤ s.pc.toNat → s.pc.toNat ≤ 0xFFE → s.pc.toNat % 2 = 0 →
    ∀ op : Word, op.toNat = (s.mem.read s.pc.toNat).toNat * 256 + (s.mem.read (s.pc.toNat + 1)).toNat →
      (∀ r ∈ opcodeTable, r.holds op = false) →
      ∃ t, step s = .next t ∧ t.fault = some (.unknownOpcode op s.pc) ∧ OnlyChanges s.popEvent t (fun p => p = .fault)

/-- R96 (decision D29): on a halted machine a `STEP` changes nothing and its result is the latched fault again; `TICK` and
`SETKEY` still act. -/
def Obligations.HaltedMachine : Prop :=
  ∀ (s : State) (f : Fault), s.ready = true → s.fault = some f →
    (s.nextEvent = .step → step s = .next s.popEvent ∧ s.stepResult = some (.fault f)) ∧
    (s.nextEvent = .tick → ∃ t, step s = .next t ∧ t.dt.toNat = s.dt.toNat - 1 ∧ t.st.toNat = s.st.toNat - 1) ∧
    (∀ k b, s.nextEvent = .setKey k b → ∃ t, step s = .next t ∧ t.keys[k] = b)

/-- R96, R99 (decision D29): a latched fault stays, the same record, through every step but an `INITIALIZE` and a `LOAD` that
fits, and those clear it. -/
def Obligations.OnlyResetClearsAFault : Prop :=
  ∀ (s t : State) (f : Fault), s.fault = some f → step s = .next t →
    (t.fault = some f ∧ s.nextEvent ≠ .init ∧ ∀ bytes, s.nextEvent = .load bytes → 3584 < bytes.length) ∨
    (t.fault = none ∧ (s.nextEvent = .init ∨ ∃ bytes, s.nextEvent = .load bytes ∧ bytes.length ≤ 3584))

/-- R95, R32 (decision D28): every fault is precise. When a step of a machine with no fault latches one, that is its whole
effect (beside the event taken off the schedule, log entry 2). -/
def Obligations.FaultsArePrecise : Prop :=
  ∀ (s t : State) (f : Fault), s.fault = none → step s = .next t → t.fault = some f → t = s.popEvent.setFault f

/-- R97, R90, R92, R93: the fault condition of each instruction is of one kind. If executing `i` latches `f`, then `i` and `f`
are one of the listed pairs and the condition holds. The address faults are decisions D8 and D9. -/
def Obligations.FaultKindsOfInstructions : Prop :=
  ∀ (i : Instr) (s t : State) (f : Fault), s.fault = none → exec i s = .next t → t.fault = some f →
    (∃ nnn, i = .call nnn ∧ s.sp = 16 ∧ f = .stackOverflow s.pc) ∨
    (i = .ret ∧ s.sp = 0 ∧ f = .stackUnderflow s.pc) ∨
    (∃ x y n, i = .drw x y n ∧ 1 ≤ n.toNat ∧ 0x1000 < s.i.toNat + n.toNat ∧ f = .addressOutOfRange .read (firstAbsent s.i)) ∨
    (∃ x, i = .ldVxMi x ∧ 0xFFF < s.i.toNat + x.val ∧ f = .addressOutOfRange .read (firstAbsent s.i)) ∨
    ((i matches .ldB _ | .ldMiVx _) ∧ s.i.toNat < 0x200 ∧ f = .addressOutOfRange .write s.i) ∨
    (∃ x, i = .ldB x ∧ 0xFFF < s.i.toNat + 2 ∧ f = .addressOutOfRange .write (firstAbsent s.i)) ∨
    (∃ x, i = .ldMiVx x ∧ 0xFFF < s.i.toNat + x.val ∧ f = .addressOutOfRange .write (firstAbsent s.i))

/-- R90, R29, R30, R32 (decisions D8, D9, D28): where the bytes of a data access are not all allowed, the instruction takes
`AddressOutOfRange` with the address the rule names, `max(I, 0x1000)` or `I`, and no pixel, no register and no byte changes. -/
def Obligations.DataAddressFaults : Prop :=
  (∀ (x y : Reg) (n : Nibble) (s : State), 1 ≤ n.toNat → 0xFFF < s.i.toNat + n.toNat - 1 →
    ∃ t a, exec (.drw x y n) s = .next t ∧ t.fault = some (.addressOutOfRange .read a) ∧ a.toNat = max s.i.toNat 0x1000 ∧
      OnlyChanges s t (fun p => p = .fault)) ∧
  (∀ (x : Reg) (s : State), 0xFFF < s.i.toNat + x.val →
    ∃ t a, exec (.ldVxMi x) s = .next t ∧ t.fault = some (.addressOutOfRange .read a) ∧ a.toNat = max s.i.toNat 0x1000 ∧
      OnlyChanges s t (fun p => p = .fault)) ∧
  (∀ (x : Reg) (s : State), s.i.toNat < 0x200 →
    ∃ t, exec (.ldMiVx x) s = .next t ∧ t.fault = some (.addressOutOfRange .write s.i) ∧ OnlyChanges s t (fun p => p = .fault)) ∧
  (∀ (x : Reg) (s : State), 0xFFF < s.i.toNat + x.val →
    ∃ t a, exec (.ldMiVx x) s = .next t ∧ t.fault = some (.addressOutOfRange .write a) ∧ a.toNat = max s.i.toNat 0x1000 ∧
      OnlyChanges s t (fun p => p = .fault))

/-- No `STEP`, `TICK`, `SETKEY`, `INITIALIZE` or `LOAD` on a reset machine ends in a stop: every step answers a next state. A
fault is taken, it does not stop the model (log entry 1). -/
def Obligations.StepAlwaysAnswersANextState : Prop :=
  (∀ s : State, s.ready = true → ∃ t, step s = .next t ∧ t.ready = true) ∧ (∀ (i : Instr) (s : State), ∃ t, exec i s = .next t)

/-- R110 (decision D32; log entry 3): before the first reset `STEP`, `TICK` and `SETKEY` are refused by name; `INITIALIZE` and
a `LOAD` that fits are defined and make the machine ready, a rejected `LOAD` does not. -/
def Obligations.RefusedBeforeFirstReset : Prop :=
  ∀ s : State, s.ready = false →
    ((s.nextEvent = .step ∨ s.nextEvent = .tick ∨ ∃ k b, s.nextEvent = .setKey k b) → step s = .refused .beforeFirstReset) ∧
    (s.nextEvent = .init → ∃ t, step s = .next t ∧ t.ready = true) ∧
    (∀ bytes, s.nextEvent = .load bytes → ∃ t, step s = .next t ∧ (t.ready = true ↔ bytes.length ≤ 3584))

/-! ## Control flow (40_control_flow.md) -/

/-- R49: `JP nnn` sets `PC` to `NNN`, with no `+2`, and changes nothing else. -/
def Obligations.JumpSetsPc : Prop :=
  ∀ (nnn : Addr) (s : State), ∃ t, exec (.jp nnn) s = .next t ∧ t.pc.toNat = nnn.toNat ∧ OnlyChanges s t (fun p => p = .pc)

/-- R52 (decision D15): `JP V0, nnn` sets `PC` to `NNN + V[0]`, not reduced modulo 4096, and changes nothing else. -/
def Obligations.JumpWithOffsetAddsV0 : Prop :=
  ∀ (nnn : Addr) (s : State), ∃ t, exec (.jpV0 nnn) s = .next t ∧ t.pc.toNat = nnn.toNat + (s.getV 0).toNat ∧
    OnlyChanges s t (fun p => p = .pc)

/-- R50 (decisions D25, D26): with fewer than 16 entries `CALL` writes `PC + 2` to slot `SP`, raises `SP` by one and sets `PC`
to `NNN`; with 16 it takes `StackOverflow(PC)`. Nothing else changes. -/
def Obligations.CallPushesTheReturnAddress : Prop :=
  ∀ (nnn : Addr) (s : State),
    (∀ k : Fin 16, k.val = s.sp.val → ∃ t, exec (.call nnn) s = .next t ∧ t.stack[k].toNat = (s.pc.toNat + 2) % 65536 ∧
      t.sp.val = s.sp.val + 1 ∧ t.pc.toNat = nnn.toNat ∧ OnlyChanges s t (fun p => p = .slot k ∨ p = .sp ∨ p = .pc)) ∧
    (s.sp = 16 → ∃ t, exec (.call nnn) s = .next t ∧ t.fault = some (.stackOverflow s.pc) ∧ OnlyChanges s t (fun p => p = .fault))

/-- R92: a `CALL` executed when `SP = 16` takes `StackOverflow` with the address of the `CALL`, and a `CALL` at any smaller
depth takes no fault. -/
def Obligations.SeventeenthCallOverflows : Prop :=
  ∀ (nnn : Addr) (s : State), s.fault = none → ∃ t, exec (.call nnn) s = .next t ∧
    t.fault = if s.sp.val = 16 then some (.stackOverflow s.pc) else none

/-- R51, R93: with an entry on the stack `RET` lowers `SP` by one and sets `PC` to the popped value, with no `+2`, the slot
keeping its contents; on the empty stack it takes `StackUnderflow(PC)`. Nothing else changes. -/
def Obligations.RetPopsTheReturnAddress : Prop :=
  ∀ s : State,
    (∀ k : Fin 16, k.val + 1 = s.sp.val → ∃ t, exec .ret s = .next t ∧ t.sp.val + 1 = s.sp.val ∧ t.pc = s.stack[k] ∧
      OnlyChanges s t (fun p => p = .sp ∨ p = .pc)) ∧
    (s.sp = 0 → ∃ t, exec .ret s = .next t ∧ t.fault = some (.stackUnderflow s.pc) ∧ OnlyChanges s t (fun p => p = .fault))

/-- 40_control_flow.md section 2 (the source's call-and-return property, 90_conflicts.md C11): a `CALL` at `A` and the `RET`
executed in the state it leaves come back to `A + 2` with `SP` as before; the only other trace is the slot the `CALL` wrote. -/
def Obligations.CallThenRetComesBack : Prop :=
  ∀ (nnn : Addr) (s : State) (k : Fin 16), k.val = s.sp.val →
    ∃ t u, exec (.call nnn) s = .next t ∧ exec .ret t = .next u ∧ u.pc = s.pc + 2 ∧ u.sp = s.sp ∧
      OnlyChanges s u (fun p => p = .pc ∨ p = .slot k)

/-- R53, R54: the skips on an immediate advance `PC` by 4 when the condition holds, else by 2, and write nothing else. -/
def Obligations.SkipsOnAnImmediate : Prop :=
  ∀ (x : Reg) (nn : Byte) (s : State),
    (∃ t, exec (.seImm x nn) s = .next t ∧ t.pc.toNat = (s.pc.toNat + if s.getV x = nn then 4 else 2) % 65536 ∧
      OnlyChanges s t (fun p => p = .pc)) ∧
    (∃ t, exec (.sneImm x nn) s = .next t ∧ t.pc.toNat = (s.pc.toNat + if s.getV x = nn then 2 else 4) % 65536 ∧
      OnlyChanges s t (fun p => p = .pc))

/-- R55, R56: the skips on two registers advance `PC` by 4 when the condition holds, else by 2, and write nothing else. -/
def Obligations.SkipsOnTwoRegisters : Prop :=
  ∀ (x y : Reg) (s : State),
    (∃ t, exec (.seReg x y) s = .next t ∧ t.pc.toNat = (s.pc.toNat + if s.getV x = s.getV y then 4 else 2) % 65536 ∧
      OnlyChanges s t (fun p => p = .pc)) ∧
    (∃ t, exec (.sneReg x y) s = .next t ∧ t.pc.toNat = (s.pc.toNat + if s.getV x = s.getV y then 2 else 4) % 65536 ∧
      OnlyChanges s t (fun p => p = .pc))

/-- R85, R86 (decision D20): the key skips look at the key whose number is the low nibble of `V[X]` and write `PC` only. -/
def Obligations.SkipsOnAKey : Prop :=
  ∀ (x : Reg) (k : Key) (s : State), k.val = (s.getV x).toNat % 16 →
    (∃ t, exec (.skp x) s = .next t ∧ t.pc.toNat = (s.pc.toNat + if s.keys[k] = true then 4 else 2) % 65536 ∧
      OnlyChanges s t (fun p => p = .pc)) ∧
    (∃ t, exec (.sknp x) s = .next t ∧ t.pc.toNat = (s.pc.toNat + if s.keys[k] = true then 2 else 4) % 65536 ∧
      OnlyChanges s t (fun p => p = .pc))

/-! ## Load and store (41_load_store.md) -/

/-- R58, R59: the two register loads write `V[X]` (`VF` too when `X = 15`) and advance `PC` by 2; nothing else changes. -/
def Obligations.RegisterLoads : Prop :=
  ∀ (x y : Reg) (nn : Byte) (s : State),
    (∃ t, exec (.ldImm x nn) s = .next t ∧ t.getV x = nn ∧ t.pc.toNat = (s.pc.toNat + 2) % 65536 ∧
      OnlyChanges s t (fun p => p = .v x ∨ p = .pc)) ∧
    (∃ t, exec (.ldReg x y) s = .next t ∧ t.getV x = s.getV y ∧ t.pc.toNat = (s.pc.toNat + 2) % 65536 ∧
      OnlyChanges s t (fun p => p = .v x ∨ p = .pc))

/-- R60: `LD I, nnn` writes `NNN` zero-extended to `I` and advances `PC` by 2; nothing else changes. -/
def Obligations.LoadIndexRegister : Prop :=
  ∀ (nnn : Addr) (s : State), ∃ t, exec (.ldI nnn) s = .next t ∧ t.i.toNat = nnn.toNat ∧
    t.pc.toNat = (s.pc.toNat + 2) % 65536 ∧ OnlyChanges s t (fun p => p = .i ∨ p = .pc)

/-- R64 (decisions D4, D19): `LD F, Vx` points `I` at `0x050 + 5 * (V[X] mod 16)`, where the five bytes of the glyph of that
digit stand in the reset memory. -/
def Obligations.FontAddress : Prop :=
  ∀ (x : Reg) (s : State), ∃ t, exec (.ldF x) s = .next t ∧ t.i.toNat = 0x050 + 5 * ((s.getV x).toNat % 16) ∧
    t.pc.toNat = (s.pc.toNat + 2) % 65536 ∧ OnlyChanges s t (fun p => p = .i ∨ p = .pc) ∧
    State.reset.mem.readBytes t.i.toNat 5 = (font.drop (5 * ((s.getV x).toNat % 16))).take 5

/-- R63: `LD B, Vx` writes the hundreds, tens and ones digit of `V[X]` to the three bytes from `I` when they are all in program
space, and changes nothing else but `PC`; else it takes `AddressOutOfRange(write, I)` below `0x200`, or with
`max(I, 0x1000)` above, and writes no byte. Memory is in its canonical form (an invariant, `StepKeepsTheInvariant`). -/
def Obligations.BcdDigitsStored : Prop :=
  ∀ (x : Reg) (s : State), s.mem.wf = true →
    (0x200 ≤ s.i.toNat → s.i.toNat + 2 ≤ 0xFFF →
      ∃ t, exec (.ldB x) s = .next t ∧ (t.mem.read (s.dataAddress 0)).toNat = (s.getV x).toNat / 100 ∧
        (t.mem.read (s.dataAddress 1)).toNat = (s.getV x).toNat / 10 % 10 ∧
        (t.mem.read (s.dataAddress 2)).toNat = (s.getV x).toNat % 10 ∧ t.pc.toNat = (s.pc.toNat + 2) % 65536 ∧
        OnlyChanges s t (fun p => p = .pc ∨ ∃ a, p = .byte a ∧ StoredByte s 3 a)) ∧
    (s.i.toNat < 0x200 →
      ∃ t, exec (.ldB x) s = .next t ∧ t.fault = some (.addressOutOfRange .write s.i) ∧ OnlyChanges s t (fun p => p = .fault)) ∧
    (0xFFF < s.i.toNat + 2 →
      ∃ t a, exec (.ldB x) s = .next t ∧ t.fault = some (.addressOutOfRange .write a) ∧ a.toNat = max s.i.toNat 0x1000 ∧
        OnlyChanges s t (fun p => p = .fault))

/-- R61 (decision D14: `I` is unchanged): `LD [I], Vx` writes `V[0]` to `V[X]` to the `X + 1` bytes from `I` when they are all
in program space; no other byte and nothing else but `PC` changes. -/
def Obligations.RegistersStored : Prop :=
  ∀ (x : Reg) (s : State), s.mem.wf = true → 0x200 ≤ s.i.toNat → s.i.toNat + x.val ≤ 0xFFF →
    ∃ t, exec (.ldMiVx x) s = .next t ∧ (∀ r : Reg, r ≤ x → t.mem.read (s.dataAddress r.val) = s.getV r) ∧
      t.pc.toNat = (s.pc.toNat + 2) % 65536 ∧
      OnlyChanges s t (fun p => p = .pc ∨ ∃ a, p = .byte a ∧ StoredByte s (x.val + 1) a)

/-- R62 (decision D14: `I` is unchanged): `LD Vx, [I]` loads `V[0]` to `V[X]` from the `X + 1` bytes from `I` when they all
exist, the reserved region included; no other register and nothing else but `PC` changes. -/
def Obligations.RegistersLoaded : Prop :=
  ∀ (x : Reg) (s : State), s.i.toNat + x.val ≤ 0xFFF →
    ∃ t, exec (.ldVxMi x) s = .next t ∧ (∀ r : Reg, r ≤ x → t.getV r = s.mem.read (s.i.toNat + r.val)) ∧
      t.pc.toNat = (s.pc.toNat + 2) % 65536 ∧ OnlyChanges s t (fun p => p = .pc ∨ ∃ r, p = .v r ∧ r ≤ x)

/-- R35 with R61 and R63: a store by `LD [I], Vx` or `LD B, Vx` is seen by every later fetch, also of the very next
instruction. Let `b` be the bytes of memory as the store leaves them by its rule: the registers, or the three digits, from `I`
on, every other byte as before. Then wherever `PC` points while memory is still as the store left it, the word fetched is
`b PC` and `b (PC + 1)`, high byte first; and with `I = PC + 2` it is what the next `STEP` fetches. -/
def Obligations.StoreIsSeenByTheNextFetch : Prop :=
  ∀ (x : Reg) (s : State) (b : Nat → Byte), s.mem.wf = true → 0x200 ≤ s.i.toNat →
    (s.i.toNat + x.val ≤ 0xFFF → (∀ r : Reg, r ≤ x → b (s.dataAddress r.val) = s.getV r) →
      (∀ a, ¬ StoredByte s (x.val + 1) a → b a = s.mem.read a) →
      ∃ t, exec (.ldMiVx x) s = .next t ∧
        (∀ u : State, u.mem = t.mem → u.pc.toNat ≤ 0xFFE →
          u.fetchWord.toNat = (b u.pc.toNat).toNat * 256 + (b (u.pc.toNat + 1)).toNat) ∧
        (1 ≤ x.val → s.i = s.pc + 2 → t.fetchWord.toNat = (s.getV 0).toNat * 256 + (s.getV 1).toNat)) ∧
    (s.i.toNat + 2 ≤ 0xFFF → (b (s.dataAddress 0)).toNat = (s.getV x).toNat / 100 →
      (b (s.dataAddress 1)).toNat = (s.getV x).toNat / 10 % 10 → (b (s.dataAddress 2)).toNat = (s.getV x).toNat % 10 →
      (∀ a, ¬ StoredByte s 3 a → b a = s.mem.read a) →
      ∃ t, exec (.ldB x) s = .next t ∧
        (∀ u : State, u.mem = t.mem → u.pc.toNat ≤ 0xFFE →
          u.fetchWord.toNat = (b u.pc.toNat).toNat * 256 + (b (u.pc.toNat + 1)).toNat) ∧
        (s.i = s.pc + 2 → t.fetchWord.toNat = (s.getV x).toNat / 100 * 256 + (s.getV x).toNat / 10 % 10))

/-! ## Arithmetic and logic (42_arith_logic.md) -/

/-- R67: `ADD Vx, nn` writes the sum modulo 256 to `V[X]` and no flag. -/
def Obligations.AddImmediate : Prop :=
  ∀ (x : Reg) (nn : Byte) (s : State), ∃ t, exec (.addImm x nn) s = .next t ∧
    (t.getV x).toNat = ((s.getV x).toNat + nn.toNat) % 256 ∧ t.pc.toNat = (s.pc.toNat + 2) % 65536 ∧
    OnlyChanges s t (fun p => p = .v x ∨ p = .pc)

/-- R68, R69, R70: the bitwise instructions, bit by bit; `VF` is left alone unless `X = 15` (decision D16). -/
def Obligations.BitwiseOperations : Prop :=
  ∀ (x y : Reg) (s : State),
    (∃ t, exec (.orReg x y) s = .next t ∧
      (∀ b < 8, (t.getV x).getLsbD b = true ↔ ((s.getV x).getLsbD b = true ∨ (s.getV y).getLsbD b = true)) ∧
      t.pc.toNat = (s.pc.toNat + 2) % 65536 ∧ OnlyChanges s t (fun p => p = .v x ∨ p = .pc)) ∧
    (∃ t, exec (.andReg x y) s = .next t ∧
      (∀ b < 8, (t.getV x).getLsbD b = true ↔ ((s.getV x).getLsbD b = true ∧ (s.getV y).getLsbD b = true)) ∧
      t.pc.toNat = (s.pc.toNat + 2) % 65536 ∧ OnlyChanges s t (fun p => p = .v x ∨ p = .pc)) ∧
    (∃ t, exec (.xorReg x y) s = .next t ∧
      (∀ b < 8, (t.getV x).getLsbD b = true ↔ (s.getV x).getLsbD b ≠ (s.getV y).getLsbD b) ∧
      t.pc.toNat = (s.pc.toNat + 2) % 65536 ∧ OnlyChanges s t (fun p => p = .v x ∨ p = .pc))

/-- R71, R66 (decisions D17, D18): `ADD Vx, Vy` writes the sum modulo 256 to `V[X]`, unless `X = 15`, and the carry, 0 or 1, to
`VF`; the operands are the old values. -/
def Obligations.AddWithCarry : Prop :=
  ∀ (x y : Reg) (s : State), ∃ t, exec (.addReg x y) s = .next t ∧
    (x ≠ 15 → (t.getV x).toNat = ((s.getV x).toNat + (s.getV y).toNat) % 256) ∧
    (t.getV 15).toNat = (if 255 < (s.getV x).toNat + (s.getV y).toNat then 1 else 0) ∧
    t.pc.toNat = (s.pc.toNat + 2) % 65536 ∧ OnlyChanges s t (fun p => p = .v x ∨ p = .v 15 ∨ p = .pc)

/-- R72, R74, R66 (decisions D17, D18): `SUB` and `SUBN` write the difference modulo 256 to `V[X]`, unless `X = 15`, and
not-borrow to `VF`: 1 when the minuend is at least the subtrahend. -/
def Obligations.SubtractWithNotBorrow : Prop :=
  ∀ (x y : Reg) (s : State),
    (∃ t, exec (.subReg x y) s = .next t ∧
      (x ≠ 15 → (t.getV x).toNat = ((s.getV x).toNat + 256 - (s.getV y).toNat) % 256) ∧
      (t.getV 15).toNat = (if (s.getV y).toNat ≤ (s.getV x).toNat then 1 else 0) ∧
      t.pc.toNat = (s.pc.toNat + 2) % 65536 ∧ OnlyChanges s t (fun p => p = .v x ∨ p = .v 15 ∨ p = .pc)) ∧
    (∃ t, exec (.subnReg x y) s = .next t ∧
      (x ≠ 15 → (t.getV x).toNat = ((s.getV y).toNat + 256 - (s.getV x).toNat) % 256) ∧
      (t.getV 15).toNat = (if (s.getV x).toNat ≤ (s.getV y).toNat then 1 else 0) ∧
      t.pc.toNat = (s.pc.toNat + 2) % 65536 ∧ OnlyChanges s t (fun p => p = .v x ∨ p = .v 15 ∨ p = .pc))

/-- R73, R75, R66 (decisions D13, D18): the shifts by one of `V[X]` in place, whatever the `Y` field, with the bit shifted out
in `VF`. -/
def Obligations.ShiftsByOne : Prop :=
  ∀ (x y : Reg) (s : State),
    (∃ t, exec (.shr x y) s = .next t ∧ (x ≠ 15 → (t.getV x).toNat = (s.getV x).toNat / 2) ∧
      (t.getV 15).toNat = (s.getV x).toNat % 2 ∧ t.pc.toNat = (s.pc.toNat + 2) % 65536 ∧
      OnlyChanges s t (fun p => p = .v x ∨ p = .v 15 ∨ p = .pc)) ∧
    (∃ t, exec (.shl x y) s = .next t ∧ (x ≠ 15 → (t.getV x).toNat = 2 * (s.getV x).toNat % 256) ∧
      (t.getV 15).toNat = (s.getV x).toNat / 128 ∧ t.pc.toNat = (s.pc.toNat + 2) % 65536 ∧
      OnlyChanges s t (fun p => p = .v x ∨ p = .v 15 ∨ p = .pc))

/-- R76 (decision D24; log entry 4): `RND Vx, nn` writes `r & NN` for a free draw `r`, the one the state's counter names, and
takes the next draw the next time; so the result has no 1 bit where `NN` has a 0. It holds for every value of the draws and
of the counter, which is the model's own field. -/
def Obligations.RandomByteUnderMask : Prop :=
  ∀ (x : Reg) (nn : Byte) (s : State), ∃ t, exec (.rnd x nn) s = .next t ∧ t.getV x = Config.freeDraw s.draws &&& nn ∧
    (∀ b < 8, nn.getLsbD b = false → (t.getV x).getLsbD b = false) ∧ t.draws = s.draws + 1 ∧
    t.pc.toNat = (s.pc.toNat + 2) % 65536 ∧ OnlyChanges s t (fun p => p = .v x ∨ p = .pc ∨ p = .draws)

/-- R77 (decision D12): `ADD I, Vx` keeps all 16 bits of the sum, writes no flag and takes no fault. -/
def Obligations.AddToIndexRegister : Prop :=
  ∀ (x : Reg) (s : State), ∃ t, exec (.addI x) s = .next t ∧ t.i.toNat = (s.i.toNat + (s.getV x).toNat) % 65536 ∧
    t.pc.toNat = (s.pc.toNat + 2) % 65536 ∧ OnlyChanges s t (fun p => p = .i ∨ p = .pc)

/-! ## Display (43_display.md) -/

/-- R79: `CLS` zeroes all 2048 pixels and changes nothing else but `PC`; `VF` is not written. -/
def Obligations.ClearScreen : Prop :=
  ∀ s : State, ∃ t, exec .cls s = .next t ∧ (∀ (y : Fin 32) (x : Fin 64), t.fb[y][x] = false) ∧
    t.pc.toNat = (s.pc.toNat + 2) % 65536 ∧ OnlyChanges s t (fun p => p = .pc ∨ ∃ y x, p = .pixel y x)

/-- R80, R78 (decisions D22, D23): when the sprite's bytes exist (or there are none), `DRW` inverts exactly the pixels the
sprite covers, round both edges of the screen, and `VF` becomes 1 if one of them was 1 before, else 0. It is the loop of R80
said pixel by pixel. -/
def Obligations.DrawInvertsTheCoveredPixels : Prop :=
  ∀ (x y : Reg) (n : Nibble) (s : State), (n.toNat = 0 ∨ s.i.toNat + n.toNat - 1 ≤ 0xFFF) →
    ∃ t, exec (.drw x y n) s = .next t ∧
      (∀ (py : Fin 32) (px : Fin 64), SpriteCovers s x y n px py → t.fb[py][px] = !s.fb[py][px]) ∧
      (∀ (py : Fin 32) (px : Fin 64), ¬ SpriteCovers s x y n px py → t.fb[py][px] = s.fb[py][px]) ∧
      ((∃ px py, SpriteCovers s x y n px py ∧ s.fb[py][px] = true) → t.getV 15 = 1) ∧
      ((¬ ∃ px py, SpriteCovers s x y n px py ∧ s.fb[py][px] = true) → t.getV 15 = 0) ∧
      t.pc.toNat = (s.pc.toNat + 2) % 65536 ∧ OnlyChanges s t (fun p => p = .v 15 ∨ p = .pc ∨ ∃ y x, p = .pixel y x)

/-- R80's last corner case: drawing the same sprite twice at the same place (coordinates in registers other than `VF`)
restores the framebuffer, and the second draw collides exactly when a covered pixel was 0 before the first. (The rule's
remark that it collides whenever the sprite has a 1 bit holds when no covered pixel was set before; log entry 13.) -/
def Obligations.DrawTwiceRestores : Prop :=
  ∀ (x y : Reg) (n : Nibble) (s : State), x ≠ 15 → y ≠ 15 → (n.toNat = 0 ∨ s.i.toNat + n.toNat - 1 ≤ 0xFFF) →
    ∃ t u, exec (.drw x y n) s = .next t ∧ exec (.drw x y n) t = .next u ∧ u.fb = s.fb ∧
      (u.getV 15 = 1 ↔ ∃ px py, SpriteCovers s x y n px py ∧ s.fb[py][px] = false)

/-- R81 (c), R78: two draws of the same sprite on the same picture, at columns that differ by a multiple of 64 and rows that
differ by a multiple of 32, give the same framebuffer and the same `VF`. -/
def Obligations.DrawPositionsWrap : Prop :=
  ∀ (x y x' y' : Reg) (n : Nibble) (s s' : State), s'.fb = s.fb → s'.mem = s.mem → s'.i = s.i →
    (s'.getV x').toNat % 64 = (s.getV x).toNat % 64 → (s'.getV y').toNat % 32 = (s.getV y).toNat % 32 →
    (n.toNat = 0 ∨ s.i.toNat + n.toNat - 1 ≤ 0xFFF) →
    ∃ t t', exec (.drw x y n) s = .next t ∧ exec (.drw x' y' n) s' = .next t' ∧ t'.fb = t.fb ∧ t'.getV 15 = t.getV 15

/-- The outputs as the host reads them. In the flat array the pixel of column `x`, row `y` stands at index `y * 64 + x`
(10_state.md section 8, R105, decision D22). The numeric codes of `FAULT` and of a rejected `LOAD` are those of R89 (decision
D27); that a `LOAD` with the result `ok` has the code of `none` is the model's reading (log entry 7). `tone` is 1 exactly when
`ST` is not 0, and it changes only at a `LD ST, Vx`, a `TICK` that brings `ST` to 0, or a reset (R103). -/
def Obligations.OutputsAsTheHostReadsThem : Prop :=
  (∀ (s : State) (x : Fin 64) (y : Fin 32), s.pixels.length = 2048 ∧ s.pixels[y.val * 64 + x.val]? = some s.fb[y][x] ∧
    s.pixelOut x y = s.fb[y][x]) ∧
  (∀ s : State, (s.fault = none → s.faultCode = 0) ∧
    (∀ access addr, s.fault = some (.addressOutOfRange access addr) → s.faultCode = 1) ∧
    (∀ op pc, s.fault = some (.unknownOpcode op pc) → s.faultCode = 2) ∧
    (∀ pc, s.fault = some (.stackOverflow pc) → s.faultCode = 3) ∧
    (∀ pc, s.fault = some (.stackUnderflow pc) → s.faultCode = 4)) ∧
  (∀ bytes : List Byte, (loadResult bytes).code = if 3584 < bytes.length then 5 else 0) ∧
  (∀ s : State, s.tone = true ↔ s.st ≠ 0) ∧
  (∀ s t : State, step s = .next t → t.tone ≠ s.tone →
    (s.nextEvent = .step ∧ ∃ x, s.fetch = .ok (.ldStVx x)) ∨ (s.nextEvent = .tick ∧ t.st = 0) ∨ s.nextEvent = .init ∨
    ∃ bytes, s.nextEvent = .load bytes ∧ bytes.length ≤ 3584)

/-! ## Timers and input (44_timers.md, 45_input.md, 60_exceptions.md) -/

/-- R82, R83, R84: the timer instructions copy between `V[X]` and the timers and advance `PC` by 2; nothing else changes, no
timer counts. -/
def Obligations.TimerInstructions : Prop :=
  ∀ (x : Reg) (s : State),
    (∃ t, exec (.ldVxDt x) s = .next t ∧ t.getV x = s.dt ∧ t.pc.toNat = (s.pc.toNat + 2) % 65536 ∧
      OnlyChanges s t (fun p => p = .v x ∨ p = .pc)) ∧
    (∃ t, exec (.ldDtVx x) s = .next t ∧ t.dt = s.getV x ∧ t.pc.toNat = (s.pc.toNat + 2) % 65536 ∧
      OnlyChanges s t (fun p => p = .dt ∨ p = .pc)) ∧
    (∃ t, exec (.ldStVx x) s = .next t ∧ t.st = s.getV x ∧ (t.tone = true ↔ s.getV x ≠ 0) ∧
      t.pc.toNat = (s.pc.toNat + 2) % 65536 ∧ OnlyChanges s t (fun p => p = .st ∨ p = .pc))

/-- R101: a `TICK` lowers each timer by one with a floor at 0, whether the machine is running, stalled or halted (decision
D29), and changes nothing else; the frame is over the event taken off the host's schedule (log entry 2, DESIGN CHOICE). The
`tone` output follows `ST` at once (R103). -/
def Obligations.TickCountsBothTimersDown : Prop :=
  ∀ s : State, s.nextEvent = .tick → s.ready = true →
    ∃ t, step s = .next t ∧ t.dt.toNat = (if s.dt = 0 then 0 else s.dt.toNat - 1) ∧
      t.st.toNat = (if s.st = 0 then 0 else s.st.toNat - 1) ∧ (t.tone = true ↔ 1 < s.st.toNat) ∧
      OnlyChanges s.popEvent t (fun p => p = .dt ∨ p = .st)

/-- R102: a timer that holds `v` reaches 0 after exactly `v` ticks: after `n` ticks it holds `v - n`, 0 from the `v`-th on. -/
def Obligations.TimerReachesZeroAfterItsTicks : Prop :=
  ∀ (n : Nat) (s : State), (State.tick^[n] s).dt.toNat = s.dt.toNat - n ∧ (State.tick^[n] s).st.toNat = s.st.toNat - n

/-- R104: a `SETKEY` writes its one cell and nothing else. -/
def Obligations.SetKeyWritesOneCell : Prop :=
  ∀ (s : State) (k : Key) (b : Bool), s.nextEvent = .setKey k b → s.ready = true →
    ∃ t, step s = .next t ∧ t.keys[k] = b ∧ OnlyChanges s.popEvent t (fun p => p = .key k)

/-- R87 (decision D21): with no key pressed `LD Vx, K` changes nothing; else it loads the least pressed key number and advances
`PC` by 2, and changes nothing else. -/
def Obligations.WaitForKey : Prop :=
  ∀ (x : Reg) (s : State),
    ((∀ j : Key, s.keys[j] = false) → exec (.ldVxK x) s = .next s) ∧
    (∀ k : Key, s.keys[k] = true → (∀ j : Key, j < k → s.keys[j] = false) →
      ∃ t, exec (.ldVxK x) s = .next t ∧ (t.getV x).toNat = k.val ∧ t.pc.toNat = (s.pc.toNat + 2) % 65536 ∧
        OnlyChanges s t (fun p => p = .v x ∨ p = .pc))

/-- R47 step 6, R87, R88, R95 (decision D37; log entry 6): the outcome of a `STEP`. It is `fault f` when `FAULT` holds `f`
after the `STEP`, newly taken or latched before; else `stalled` when the machine was stalled; else `ok`; before the first reset
a `STEP` has none (R110; log entry 3).
The machine is stalled exactly when it is not halted, the instruction at `PC` is `LD Vx, K` and no key is pressed; a `STEP`
there changes nothing (the event is taken off the host's schedule, log entry 2). -/
def Obligations.StepOutcome : Prop :=
  ∀ s : State,
    (s.stalled = true ↔ s.fault = none ∧ (∃ x, s.fetch = .ok (.ldVxK x)) ∧ ∀ j : Key, s.keys[j] = false) ∧
    (s.ready = true → s.stalled = true → s.nextEvent = .step → step s = .next s.popEvent) ∧
    (s.ready = true → (s.stepResult = some .stalled ↔ s.stalled = true)) ∧
    (∀ t, s.ready = true → (stepEvent s = .next t ∨ (s.nextEvent = .step ∧ step s = .next t)) →
      (∀ f, t.fault = some f → s.stepResult = some (.fault f)) ∧
      (t.fault = none → s.stalled = false → s.stepResult = some .ok)) ∧
    (s.ready = true → ∃ r, s.stepResult = some r) ∧ (s.ready = false → s.stepResult = none)

/-! ## Reset (10_state.md R20, 70_reset_and_hazards.md) -/

/-- R20, R108: the reset state, element by element. The keys are decision D7, the fault latch D29, the reserved bytes outside
the font D6, the font's address and bytes D4 and D5, program space D31; the sixteen glyphs are the table of R24 as it stands
(log entry 15 on the digit D). After reset `tone` is 0 (R108) and the machine is past its first reset (log entry 3). -/
def Obligations.ResetValues : Prop :=
  (∀ r : Reg, State.reset.getV r = 0x00) ∧ State.reset.i = 0x0000 ∧ State.reset.pc = 0x0200 ∧ State.reset.sp = 0 ∧
  (∀ k : Fin 16, State.reset.stack[k] = 0x0000) ∧ State.reset.dt = 0x00 ∧ State.reset.st = 0x00 ∧
  (∀ (y : Fin 32) (x : Fin 64), State.reset.fb[y][x] = false) ∧ (∀ k : Key, State.reset.keys[k] = false) ∧
  State.reset.fault = none ∧ State.reset.tone = false ∧ State.reset.ready = true ∧
  (∀ a : Nat, (a < 0x050 ∨ (0x0A0 ≤ a ∧ a < 0x1000)) → State.reset.mem.read a = 0x00) ∧
  State.reset.mem.readBytes 0x050 5 = [0xF0, 0x90, 0x90, 0x90, 0xF0] ∧
  State.reset.mem.readBytes 0x055 5 = [0x20, 0x60, 0x20, 0x20, 0x70] ∧
  State.reset.mem.readBytes 0x05A 5 = [0xF0, 0x10, 0xF0, 0x80, 0xF0] ∧
  State.reset.mem.readBytes 0x05F 5 = [0xF0, 0x10, 0xF0, 0x10, 0xF0] ∧
  State.reset.mem.readBytes 0x064 5 = [0x90, 0x90, 0xF0, 0x10, 0x10] ∧
  State.reset.mem.readBytes 0x069 5 = [0xF0, 0x80, 0xF0, 0x10, 0xF0] ∧
  State.reset.mem.readBytes 0x06E 5 = [0xF0, 0x80, 0xF0, 0x90, 0xF0] ∧
  State.reset.mem.readBytes 0x073 5 = [0xF0, 0x10, 0x20, 0x40, 0x40] ∧
  State.reset.mem.readBytes 0x078 5 = [0xF0, 0x90, 0xF0, 0x90, 0xF0] ∧
  State.reset.mem.readBytes 0x07D 5 = [0xF0, 0x90, 0xF0, 0x10, 0xF0] ∧
  State.reset.mem.readBytes 0x082 5 = [0xF0, 0x90, 0xF0, 0x90, 0x90] ∧
  State.reset.mem.readBytes 0x087 5 = [0xE0, 0x90, 0xE0, 0x90, 0xE0] ∧
  State.reset.mem.readBytes 0x08C 5 = [0xF0, 0x80, 0x80, 0x80, 0xF0] ∧
  State.reset.mem.readBytes 0x091 5 = [0xE0, 0x90, 0xE0, 0x90, 0xE0] ∧
  State.reset.mem.readBytes 0x096 5 = [0xF0, 0x80, 0xF0, 0x80, 0xF0] ∧
  State.reset.mem.readBytes 0x09B 5 = [0xF0, 0x80, 0xF0, 0x80, 0x80]

/-- R108: an `INITIALIZE` puts every element of the state at its reset value, from any state; the model's own counter of draws
and the host's schedule are not elements of the hardware's state (log entries 2, 4). -/
def Obligations.InitializeGivesTheResetState : Prop :=
  ∀ s : State, s.nextEvent = .init → ∃ t, step s = .next t ∧
    (∀ p : Part, p ≠ .draws → p ≠ .schedule → Part.Same State.reset t p) ∧ t.draws = s.draws ∧ t.schedule = s.schedule.tail

/-- R109, R94 (decision D30): a `LOAD` of at most 3584 bytes resets the machine, copies the bytes to `0x200` on and leaves the
rest of program space zero, with the result `ok`; a longer one changes nothing, with the result `ProgramTooLarge(len)`, which
is computed and not stored (log entry 7). The model's own counter of draws is not rewound (log entry 4), and of the host's
schedule only this event is taken off (log entry 2). -/
def Obligations.LoadInstallsTheProgram : Prop :=
  ∀ (s : State) (bytes : List Byte), s.nextEvent = .load bytes →
    (bytes.length ≤ 3584 → loadResult bytes = .ok ∧ ∃ t, step s = .next t ∧
      (∀ (k : Nat) (h : k < bytes.length), t.mem.read (0x200 + k) = bytes[k]) ∧
      (∀ a, 0x200 + bytes.length ≤ a → a < 0x1000 → t.mem.read a = 0x00) ∧
      (∀ p : Part, p ≠ .draws → p ≠ .schedule → (∀ a, p = .byte a → a < 0x200) → Part.Same State.reset t p) ∧
      t.draws = s.draws ∧ t.schedule = s.schedule.tail) ∧
    (3584 < bytes.length → loadResult bytes = .programTooLarge bytes.length ∧ step s = .next s.popEvent)

/-! ## The whole machine -/

/-- The invariant `State.Inv` is kept by every step from every state that meets it: memory stays in canonical form, the reserved
region with the font stays as reset leaves it (R23, R24), no stack slot exceeds `0x1000` (R50) and `PC` never exceeds
`0x10FE` (R11). -/
def Obligations.StepKeepsTheInvariant : Prop := ∀ s t : State, s.Inv → step s = .next t → t.Inv

/-- The invariant holds after reset. -/
def Obligations.ResetMeetsTheInvariant : Prop := State.reset.Inv

/-- R24, R30, R37: no step changes what a byte of the reserved region reads as: the font table and the bytes around it are
those of reset in every state that meets the invariant, and so after any step. -/
def Obligations.ReservedRegionIsImmutable : Prop :=
  ∀ s t : State, s.Inv → step s = .next t → ∀ a < 0x200, t.mem.read a = s.mem.read a ∧ t.mem.read a = State.reset.mem.read a

/-- The access matrix (10_state.md R21): an instruction changes no part of the state but those of its write columns. -/
def Obligations.AccessMatrix : Prop := ∀ (i : Instr) (s t : State), exec i s = .next t → OnlyChanges s t (Writes i s)

/-- The prose of 10_state.md (R8 to R13, R15 to R17), R48, R81 (a), R95 and R97: in a `STEP` each element changes only under
the instructions named for it.
`V[r]` changes only under an instruction with that destination, and `VF` beside that only under the six flag writers (R9);
`I` under `LD I`, `ADD I` and `LD F`; `PC` only when an instruction completes without a fault, by R48's kinds;
`SP` under `CALL` and `RET`, the slots under `CALL`; `DT` under `LD DT`, `ST` under `LD ST`;
the framebuffer under `CLS` and `DRW`; the key latch under none; memory under `LD B` and `LD [I]`;
`FAULT` is only ever set, by a fault of the fetch or by an instruction with a fault condition.
That a reset has happened (R110; log entry 3) stays so, and the model's counter of draws moves under `RND` (log entry 4). -/
def Obligations.WritersOfEachElement : Prop :=
  ∀ s t : State, s.nextEvent = .step → step s = .next t →
    (∀ r, t.getV r ≠ s.getV r → ∃ i, s.fetch = .ok i ∧ (Destination i r ∨ (r = 15 ∧ FlagWriter i))) ∧
    (t.i ≠ s.i → (∃ nnn, s.fetch = .ok (.ldI nnn)) ∨ (∃ x, s.fetch = .ok (.addI x)) ∨ ∃ x, s.fetch = .ok (.ldF x)) ∧
    (t.pc ≠ s.pc → s.fault = none ∧ t.fault = none ∧ ∃ i, s.fetch = .ok i ∧ (pcKind i = .sequential → t.pc = s.pc + 2) ∧
      (pcKind i = .skip → t.pc = s.pc + 2 ∨ t.pc = s.pc + 4)) ∧
    (t.sp ≠ s.sp → (∃ nnn, s.fetch = .ok (.call nnn)) ∨ s.fetch = .ok .ret) ∧
    (t.stack ≠ s.stack → ∃ nnn, s.fetch = .ok (.call nnn)) ∧
    (t.dt ≠ s.dt → ∃ x, s.fetch = .ok (.ldDtVx x)) ∧ (t.st ≠ s.st → ∃ x, s.fetch = .ok (.ldStVx x)) ∧
    (t.fb ≠ s.fb → s.fetch = .ok .cls ∨ ∃ x y n, s.fetch = .ok (.drw x y n)) ∧ t.keys = s.keys ∧
    (t.mem ≠ s.mem → (∃ x, s.fetch = .ok (.ldB x)) ∨ ∃ x, s.fetch = .ok (.ldMiVx x)) ∧
    (t.fault ≠ s.fault → s.fault = none ∧ ∃ f, t.fault = some f ∧
      (s.fetch = .error f ∨ ∃ i, s.fetch = .ok i ∧ HasFaultCondition i)) ∧
    t.ready = s.ready ∧ (t.draws ≠ s.draws → ∃ x nn, s.fetch = .ok (.rnd x nn))

/-- 44_timers.md section on `LD Vx, DT`, R13: whatever the host's events, the delay timer rises only when `LD DT, Vx` is
executed, so a program that wrote `v` reads at most `v` until it writes again or the machine is reset. -/
def Obligations.DelayTimerRisesOnlyWhenWritten : Prop :=
  ∀ s t : State, step s = .next t → s.dt.toNat < t.dt.toNat → s.nextEvent = .step ∧ ∃ x, s.fetch = .ok (.ldDtVx x)

/-- The parts of `Part` are all of the state: two states with canonical memories that agree on every part are equal. So a frame
`OnlyChanges` leaves nothing out. -/
def Obligations.PartsAreTheWholeState : Prop :=
  ∀ s t : State, s.mem.wf = true → t.mem.wf = true → (∀ p : Part, Part.Same s t p) → t = s

/-- R112 (decision D36; log entry 11), R49: at a jump to itself a `STEP` leaves all state unchanged, and the state is again at a
jump to itself. -/
def Obligations.SelfJumpChangesNothing : Prop :=
  ∀ s : State, s.AtSelfJump → s.ready = true → s.nextEvent = .step → step s = .next s.popEvent ∧ s.popEvent.AtSelfJump
end

