-- ==== Sys2Proof/Laws/Decode.lean ====
section
/-! SUPPORT. What the fields of a word and the packed formats are as numbers, and how bytes and words fit together. -/

namespace Sys2Proof

/-- Appending bit vectors is adding, the left one moved up. -/
theorem append_toNat {n m : Nat} (a : BitVec n) (b : BitVec m) : (a ++ b).toNat = a.toNat * 2 ^ m + b.toNat := by
  rw [BitVec.toNat_append, ← Nat.shiftLeft_add_eq_or_of_lt b.isLt, Nat.shiftLeft_eq]

/-! ## The formats as numbers -/

theorem packNNN_toNat (t : Nibble) (nnn : Addr) : (packNNN t nnn).toNat = t.toNat * 4096 + nnn.toNat :=
  append_toNat t nnn

theorem packXNN_toNat (t : Nibble) (x : Reg) (nn : Byte) :
    (packXNN t x nn).toNat = t.toNat * 4096 + x.val * 256 + nn.toNat := by
  have h : (packXNN t x nn).toNat = _ := append_toNat (t ++ BitVec.ofFin (w := 4) x) nn
  rw [h, append_toNat]
  simp
  omega

theorem packXYN_toNat (t n : Nibble) (x y : Reg) :
    (packXYN t x y n).toNat = t.toNat * 4096 + x.val * 256 + y.val * 16 + n.toNat := by
  have h : (packXYN t x y n).toNat = _ := append_toNat (t ++ BitVec.ofFin (w := 4) x ++ BitVec.ofFin (w := 4) y) n
  rw [h, append_toNat, append_toNat]
  simp
  omega

/-! ## The fields as numbers -/

theorem fieldT_toNat (w : Word) : (fieldT w).toNat = w.toNat / 4096 := by
  simp [fieldT, BitVec.extractLsb'_toNat, Nat.shiftRight_eq_div_pow]
  omega

theorem fieldX_val (w : Word) : (fieldX w).val = w.toNat / 256 % 16 := by
  simp [fieldX, nibbleX, Nat.shiftRight_eq_div_pow]

theorem fieldY_val (w : Word) : (fieldY w).val = w.toNat / 16 % 16 := by
  simp [fieldY, nibbleY, Nat.shiftRight_eq_div_pow]

theorem fieldN_toNat (w : Word) : (fieldN w).toNat = w.toNat % 16 := by
  simp [fieldN, BitVec.extractLsb'_toNat]

theorem fieldNN_toNat (w : Word) : (fieldNN w).toNat = w.toNat % 256 := by
  simp [fieldNN, BitVec.extractLsb'_toNat]

theorem fieldNNN_toNat (w : Word) : (fieldNNN w).toNat = w.toNat % 4096 := by
  simp [fieldNNN, BitVec.extractLsb'_toNat]

/-! ## The fields of a packed word -/

@[simp] theorem fieldT_packNNN (t : Nibble) (nnn : Addr) : fieldT (packNNN t nnn) = t := by
  apply BitVec.eq_of_toNat_eq
  rw [fieldT_toNat, packNNN_toNat]
  omega

@[simp] theorem fieldNNN_packNNN (t : Nibble) (nnn : Addr) : fieldNNN (packNNN t nnn) = nnn := by
  apply BitVec.eq_of_toNat_eq
  rw [fieldNNN_toNat, packNNN_toNat]
  omega

@[simp] theorem fieldT_packXNN (t : Nibble) (x : Reg) (nn : Byte) : fieldT (packXNN t x nn) = t := by
  apply BitVec.eq_of_toNat_eq
  rw [fieldT_toNat, packXNN_toNat]
  omega

@[simp] theorem fieldX_packXNN (t : Nibble) (x : Reg) (nn : Byte) : fieldX (packXNN t x nn) = x := by
  apply Fin.ext
  rw [fieldX_val, packXNN_toNat]
  omega

@[simp] theorem fieldNN_packXNN (t : Nibble) (x : Reg) (nn : Byte) : fieldNN (packXNN t x nn) = nn := by
  apply BitVec.eq_of_toNat_eq
  rw [fieldNN_toNat, packXNN_toNat]
  omega

@[simp] theorem fieldT_packXYN (t n : Nibble) (x y : Reg) : fieldT (packXYN t x y n) = t := by
  apply BitVec.eq_of_toNat_eq
  rw [fieldT_toNat, packXYN_toNat]
  omega

@[simp] theorem fieldX_packXYN (t n : Nibble) (x y : Reg) : fieldX (packXYN t x y n) = x := by
  apply Fin.ext
  rw [fieldX_val, packXYN_toNat]
  omega

@[simp] theorem fieldY_packXYN (t n : Nibble) (x y : Reg) : fieldY (packXYN t x y n) = y := by
  apply Fin.ext
  rw [fieldY_val, packXYN_toNat]
  omega

@[simp] theorem fieldN_packXYN (t n : Nibble) (x y : Reg) : fieldN (packXYN t x y n) = n := by
  apply BitVec.eq_of_toNat_eq
  rw [fieldN_toNat, packXYN_toNat]
  omega

/-! ## A word is packed from its fields -/

@[simp] theorem packNNN_fields (w : Word) : packNNN (fieldT w) (fieldNNN w) = w := by
  apply BitVec.eq_of_toNat_eq
  rw [packNNN_toNat, fieldT_toNat, fieldNNN_toNat]
  omega

@[simp] theorem packXNN_fields (w : Word) : packXNN (fieldT w) (fieldX w) (fieldNN w) = w := by
  apply BitVec.eq_of_toNat_eq
  rw [packXNN_toNat, fieldT_toNat, fieldX_val, fieldNN_toNat]
  omega

@[simp] theorem packXYN_fields (w : Word) : packXYN (fieldT w) (fieldX w) (fieldY w) (fieldN w) = w := by
  apply BitVec.eq_of_toNat_eq
  rw [packXYN_toNat, fieldT_toNat, fieldX_val, fieldY_val, fieldN_toNat]
  omega

/-! ## The masks of the opcode table -/

theorem and_mask_F000 (w : Word) : w &&& 0xF000 = packNNN (fieldT w) 0 := by
  apply BitVec.eq_of_getLsbD_eq
  intro k hk
  have e : packNNN (fieldT w) 0 = (fieldT w ++ (0 : BitVec 12) : BitVec (4 + 12)) := rfl
  rw [e]
  simp only [fieldT, BitVec.getLsbD_and, BitVec.getLsbD_append, BitVec.getLsbD_extractLsb']
  interval_cases k <;> simp

theorem and_mask_F00F (w : Word) : w &&& 0xF00F = packXYN (fieldT w) 0 0 (fieldN w) := by
  apply BitVec.eq_of_getLsbD_eq
  intro k hk
  have e : packXYN (fieldT w) 0 0 (fieldN w) =
    (fieldT w ++ (0 : BitVec 4) ++ (0 : BitVec 4) ++ fieldN w : BitVec (4 + 4 + 4 + 4)) := rfl
  rw [e]
  simp only [fieldT, fieldN, BitVec.getLsbD_and, BitVec.getLsbD_append, BitVec.getLsbD_extractLsb']
  interval_cases k <;> simp

theorem and_mask_F0FF (w : Word) : w &&& 0xF0FF = packXNN (fieldT w) 0 (fieldNN w) := by
  apply BitVec.eq_of_getLsbD_eq
  intro k hk
  have e : packXNN (fieldT w) 0 (fieldNN w) = (fieldT w ++ (0 : BitVec 4) ++ fieldNN w : BitVec (4 + 4 + 8)) := rfl
  rw [e]
  simp only [fieldT, fieldNN, BitVec.getLsbD_and, BitVec.getLsbD_append, BitVec.getLsbD_extractLsb']
  interval_cases k <;> simp

theorem and_mask_000F_toNat (w : Word) : (w &&& 0x000F).toNat = w.toNat % 16 := by
  rw [BitVec.toNat_and]
  exact Nat.and_two_pow_sub_one_eq_mod w.toNat 4

theorem and_mask_00FF_toNat (w : Word) : (w &&& 0x00FF).toNat = w.toNat % 256 := by
  rw [BitVec.toNat_and]
  exact Nat.and_two_pow_sub_one_eq_mod w.toNat 8

/-! ## Bytes and words -/

theorem highByte_toNat (w : Word) : (highByte w).toNat = w.toNat / 256 := by
  simp [highByte, BitVec.extractLsb'_toNat, Nat.shiftRight_eq_div_pow]
  omega

theorem lowByte_toNat (w : Word) : (lowByte w).toNat = w.toNat % 256 := by
  simp [lowByte, BitVec.extractLsb'_toNat]

theorem joinBytes_toNat (hi lo : Byte) : (joinBytes hi lo).toNat = hi.toNat * 256 + lo.toNat := append_toNat hi lo

@[simp] theorem joinBytes_highByte_lowByte (w : Word) : joinBytes (highByte w) (lowByte w) = w := by
  apply BitVec.eq_of_toNat_eq
  rw [joinBytes_toNat, highByte_toNat, lowByte_toNat]
  omega

@[simp] theorem highByte_joinBytes (hi lo : Byte) : highByte (joinBytes hi lo) = hi := by
  apply BitVec.eq_of_toNat_eq
  rw [highByte_toNat, joinBytes_toNat]
  omega

@[simp] theorem lowByte_joinBytes (hi lo : Byte) : lowByte (joinBytes hi lo) = lo := by
  apply BitVec.eq_of_toNat_eq
  rw [lowByte_toNat, joinBytes_toNat]
  omega

/-- Two bytes decode as the word they make; the rest is given back. -/
theorem decodeBytes_cons_cons (hi lo : Byte) (rest : List Byte) :
    decodeBytes (hi :: lo :: rest) = (decodeWord (joinBytes hi lo)).map fun i => (i, rest) := by
  simp only [decodeBytes]
  cases decodeWord (joinBytes hi lo) <;> rfl

end Sys2Proof
end

