-- ==== Sys2Proof/Laws/Memory.lean ====
section
/-! SUPPORT. The laws of memory: reads after writes, and that every operation keeps the canonical form. -/

namespace Sys2Proof.Machine

/-! ## The canonical form -/

theorem Memory.wfFrom_cons (lo a : Nat) (b : Byte) (m : Memory) :
    Memory.wfFrom lo ((a, b) :: m) = true ↔
      lo ≤ a ∧ a < 0x1000 ∧ b ≠ Memory.resetByte a ∧ Memory.wfFrom (a + 1) m = true := by
  simp [Memory.wfFrom, and_assoc]

/-- A list canonical from an address on is canonical from every lower one on. -/
theorem Memory.wfFrom_mono {lo lo' : Nat} {m : Memory} (h : Memory.wfFrom lo m = true) (hl : lo' ≤ lo) :
    Memory.wfFrom lo' m = true := by
  cases m with
  | nil => rfl
  | cons c m =>
    obtain ⟨a, b⟩ := c
    rw [Memory.wfFrom_cons] at h ⊢
    exact ⟨by omega, h.2⟩

/-- Below the first address a canonical list lists nothing. -/
theorem Memory.read_below {lo : Nat} {m : Memory} (h : Memory.wfFrom lo m = true) {a : Nat} (ha : a < lo) :
    m.read a = Memory.resetByte a := by
  induction m generalizing lo with
  | nil => rfl
  | cons c m ih =>
    obtain ⟨d, b⟩ := c
    rw [Memory.wfFrom_cons] at h
    have hne : d ≠ a := by omega
    simp only [Memory.read, if_neg hne]
    exact ih h.2.2.2 (by omega)

theorem Memory.wfFrom_write {lo : Nat} {m : Memory} (h : Memory.wfFrom lo m = true) {a : Nat} (hlo : lo ≤ a)
    (ha : a < 0x1000) (b : Byte) : Memory.wfFrom lo (m.write a b) = true := by
  induction m generalizing lo with
  | nil =>
    simp only [Memory.write]
    split
    · rfl
    · next hb => exact (Memory.wfFrom_cons _ _ _ _).2 ⟨hlo, ha, hb, rfl⟩
  | cons c m ih =>
    obtain ⟨d, e⟩ := c
    have h' := (Memory.wfFrom_cons _ _ _ _).1 h
    simp only [Memory.write]
    split
    · next hlt =>
      split
      · exact h
      · next hb =>
        exact (Memory.wfFrom_cons _ _ _ _).2
          ⟨hlo, ha, hb, (Memory.wfFrom_cons _ _ _ _).2 ⟨by omega, h'.2⟩⟩
    · split
      · next heq =>
        subst heq
        split
        · exact Memory.wfFrom_mono h'.2.2.2 (by omega)
        · next hb => exact (Memory.wfFrom_cons _ _ _ _).2 ⟨hlo, ha, hb, h'.2.2.2⟩
      · exact (Memory.wfFrom_cons _ _ _ _).2 ⟨h'.1, h'.2.1, h'.2.2.1, ih h'.2.2.2 (by omega)⟩

/-- A store of one byte keeps the canonical form. -/
theorem Memory.wf_write {m : Memory} (h : m.wf = true) {a : Nat} (ha : a < 0x1000) (b : Byte) : (m.write a b).wf = true :=
  Memory.wfFrom_write h (Nat.zero_le a) ha b

/-- A store of several bytes that stay below `0x1000` keeps the canonical form. -/
theorem Memory.wf_writeBytes {m : Memory} (h : m.wf = true) {a : Nat} (bs : List Byte) (ha : a + bs.length ≤ 0x1000) :
    (m.writeBytes a bs).wf = true := by
  induction bs generalizing m a with
  | nil => exact h
  | cons b bs ih =>
    simp only [List.length_cons] at ha
    exact ih (Memory.wf_write h (by omega) b) (by omega)

/-! ## Reads after writes -/

theorem Memory.read_write_sameFrom {lo : Nat} {m : Memory} (h : Memory.wfFrom lo m = true) (a : Nat) (b : Byte) :
    (m.write a b).read a = b := by
  induction m generalizing lo with
  | nil =>
    simp only [Memory.write]
    split
    · next hb => simp [Memory.read, hb]
    · simp [Memory.read]
  | cons c m ih =>
    obtain ⟨d, e⟩ := c
    have h' := (Memory.wfFrom_cons _ _ _ _).1 h
    simp only [Memory.write]
    split
    · next hlt =>
      split
      · next hb =>
        rw [hb]
        exact Memory.read_below (lo := d) ((Memory.wfFrom_cons _ _ _ _).2 ⟨Nat.le_refl d, h'.2⟩) hlt
      · simp [Memory.read]
    · split
      · next heq =>
        subst heq
        split
        · next hb => rw [hb]; exact Memory.read_below h'.2.2.2 (by omega)
        · simp [Memory.read]
      · next hne =>
        have hda : d ≠ a := by omega
        simp only [Memory.read, if_neg hda]
        exact ih h'.2.2.2

/-- Reading the byte just written gives it. -/
theorem Memory.read_write_same {m : Memory} (h : m.wf = true) (a : Nat) (b : Byte) : (m.write a b).read a = b :=
  Memory.read_write_sameFrom h a b

/-- A store of one byte leaves every other byte alone. -/
theorem Memory.read_write_other (m : Memory) (a e : Nat) (b : Byte) (h : e ≠ a) : (m.write a b).read e = m.read e := by
  have hae : a ≠ e := fun hh => h hh.symm
  induction m with
  | nil =>
    simp only [Memory.write]
    split <;> simp [Memory.read, hae]
  | cons c m ih =>
    obtain ⟨d, f⟩ := c
    simp only [Memory.write]
    split
    · split <;> simp [Memory.read, hae]
    · split
      · next heq =>
        subst heq
        split <;> simp [Memory.read, hae]
      · simp only [Memory.read, ih]

/-- A store of several bytes leaves the bytes outside them alone. -/
theorem Memory.read_writeBytes_outside (m : Memory) (a e : Nat) (bs : List Byte) (h : e < a ∨ a + bs.length ≤ e) :
    (m.writeBytes a bs).read e = m.read e := by
  induction bs generalizing m a with
  | nil => rfl
  | cons b bs ih =>
    simp only [List.length_cons] at h
    simp only [Memory.writeBytes]
    rw [ih _ _ (by omega), Memory.read_write_other _ _ _ _ (by omega)]

/-- Reading one of several bytes just stored gives it. -/
theorem Memory.read_writeBytes_inside {m : Memory} (hm : m.wf = true) {a : Nat} (bs : List Byte)
    (ha : a + bs.length ≤ 0x1000) (k : Nat) (hk : k < bs.length) : (m.writeBytes a bs).read (a + k) = bs[k] := by
  induction bs generalizing m a k with
  | nil => simp at hk
  | cons b bs ih =>
    simp only [List.length_cons] at ha hk
    simp only [Memory.writeBytes]
    cases k with
    | zero =>
      rw [Memory.read_writeBytes_outside _ _ _ _ (by omega)]
      simpa using Memory.read_write_same hm a b
    | succ k =>
      have := ih (Memory.wf_write hm (show a < 0x1000 by omega) b) (a := a + 1) (by omega) k (by omega)
      rw [show a + (k + 1) = a + 1 + k by omega, this]
      rfl

@[simp] theorem Memory.readBytes_length (m : Memory) (a n : Nat) : (m.readBytes a n).length = n := by
  induction n generalizing a with
  | zero => rfl
  | succ n ih => simp [Memory.readBytes, ih]

/-- Byte `k` of a block read is the byte at `a + k`. -/
theorem Memory.readBytes_get (m : Memory) (a n k : Nat) (hk : k < (m.readBytes a n).length) :
    (m.readBytes a n)[k] = m.read (a + k) := by
  induction n generalizing a k with
  | zero => simp [Memory.readBytes] at hk
  | succ n ih =>
    cases k with
    | zero => simp [Memory.readBytes]
    | succ k =>
      simp only [Memory.readBytes_length] at hk
      simp only [Memory.readBytes, List.getElem_cons_succ]
      rw [ih (a + 1) k (by simpa using by omega)]
      congr 1
      omega

/-! ## The reserved region -/

/-- A store of one byte in program space keeps the reserved region. -/
theorem Memory.reservedIntact_write {m : Memory} (h : m.reservedIntact = true) {a : Nat} (ha : 0x200 ≤ a) (b : Byte) :
    (m.write a b).reservedIntact = true := by
  induction m with
  | nil =>
    simp only [Memory.write]
    split <;> simp [Memory.reservedIntact, ha]
  | cons c m ih =>
    obtain ⟨d, e⟩ := c
    have h' : 0x200 ≤ d ∧ Memory.reservedIntact m = true := by simpa [Memory.reservedIntact] using h
    have hm : Memory.reservedIntact ((d, e) :: m) = true := h
    simp only [Memory.write]
    split
    · split
      · exact h
      · simpa [Memory.reservedIntact, ha] using h
    · split
      · split
        · exact h'.2
        · simpa [Memory.reservedIntact, ha] using h'.2
      · simpa [Memory.reservedIntact, h'.1] using ih h'.2

/-- A store of several bytes in program space keeps the reserved region. -/
theorem Memory.reservedIntact_writeBytes {m : Memory} (h : m.reservedIntact = true) {a : Nat} (ha : 0x200 ≤ a)
    (bs : List Byte) : (m.writeBytes a bs).reservedIntact = true := by
  induction bs generalizing m a with
  | nil => exact h
  | cons b bs ih => exact ih (Memory.reservedIntact_write h ha b) (by omega)

/-- Below `0x200` a memory with its reserved region intact reads as its reset contents. -/
theorem Memory.read_reserved {m : Memory} (h : m.reservedIntact = true) {a : Nat} (ha : a < 0x200) :
    m.read a = Memory.resetByte a := by
  induction m with
  | nil => rfl
  | cons c m ih =>
    obtain ⟨d, e⟩ := c
    have h' : 0x200 ≤ d ∧ Memory.reservedIntact m = true := by simpa [Memory.reservedIntact] using h
    have hne : d ≠ a := by omega
    simp only [Memory.read, if_neg hne]
    exact ih h'.2

/-! ## Guards: when they pass -/

theorem fetchGuard_eq_none_iff (pc : Word) :
    fetchGuard pc = none ↔ 0x200 ≤ pc.toNat ∧ pc.toNat ≤ 0xFFE ∧ pc.toNat % 2 = 0 := by
  simp only [fetchGuard, Config.progBase]
  split
  · simp; omega
  · split
    · simp; omega
    · split
      · simp; omega
      · simp; omega

/-- A guard's fault, where it has one, is the fetch fault at `PC`. -/
theorem fetchGuard_fault {pc : Word} {f : Fault} (h : fetchGuard pc = some f) : f = .addressOutOfRange .fetch pc := by
  simp only [fetchGuard] at h
  split at h
  · exact (Option.some.inj h).symm
  · split at h
    · exact (Option.some.inj h).symm
    · split at h
      · exact (Option.some.inj h).symm
      · simp at h

theorem readGuard_eq_none_iff (a : Word) (n : Nat) : readGuard a n = none ↔ n = 0 ∨ a.toNat + n ≤ 0x1000 := by
  simp only [readGuard]
  split
  · simp; omega
  · simp; omega

theorem writeGuard_eq_none_iff (a : Word) (n : Nat) :
    writeGuard a n = none ↔ 0x200 ≤ a.toNat ∧ a.toNat + n ≤ 0x1000 := by
  simp only [writeGuard, Config.progBase]
  split
  · simp; omega
  · split
    · simp; omega
    · simp; omega

/-- The fault of the read guard. -/
theorem readGuard_fault {a : Word} {n : Nat} (hn : 1 ≤ n) (h : 0x1000 < a.toNat + n) :
    readGuard a n = some (.addressOutOfRange .read (firstAbsent a)) := by
  simp only [readGuard, if_pos (show 1 ≤ n ∧ 0xFFF < a.toNat + n - 1 by omega)]

/-- The lowest absent address of an access is `max(a, 0x1000)`. -/
theorem firstAbsent_toNat (a : Word) : (firstAbsent a).toNat = max a.toNat 0x1000 := by
  simp only [firstAbsent]
  split
  · next h =>
    have : a.toNat < 0x1000 := h
    have e : (0x1000 : Word).toNat = 0x1000 := rfl
    omega
  · next h =>
    have : ¬ a.toNat < 0x1000 := h
    omega

end Sys2Proof.Machine
end

