-- ==== Sys2Proof/Laws/Ops.lean ====
section
/-! SUPPORT. One lemma per shared operation, saying all it can do: guards, faults, the stack, fetch, block transfers, keys. -/

namespace Sys2Proof.Machine

/-! ## Faults and guards -/

/-- Taking a fault answers a next state that differs in `FAULT` only. -/
theorem State.raise_eq (s : State) (f : Fault) : s.raise f = .next (s.setFault f) := rfl

/-- A guarded effect answers a next state: the effect if the guard passes, else the fault taken. -/
theorem State.guarded_cases {s t e : State} {g : Option Fault} (h : s.guarded g e = .next t) :
    (g = none ∧ t = e) ∨ ∃ f, g = some f ∧ t = s.setFault f := by
  cases g with
  | none => exact .inl ⟨rfl, by simpa [State.guarded] using h.symm⟩
  | some f => exact .inr ⟨f, rfl, by simpa [State.guarded, State.raise] using h.symm⟩

@[simp] theorem State.guarded_none (s e : State) : s.guarded none e = .next e := rfl

@[simp] theorem State.guarded_some (s e : State) (f : Fault) : s.guarded (some f) e = .next (s.setFault f) := rfl

/-! ## The program counter -/

/-- `skipIf` writes `PC` only. -/
theorem State.skipIf_eq (s : State) (c : Bool) : s.skipIf c = s.setPc (if c then s.pc + 4 else s.pc + 2) := by
  cases c <;> rfl

/-! ## The stack -/

/-- A push that succeeds: there was room, slot `SP` holds the value, `SP` is one more, nothing else changed. -/
theorem State.push_cases {s t : State} {w : Word} (h : s.push w = some t) :
    ∃ hs : s.sp.val < 16, t = { s with stack := s.stack.set s.sp.val w, sp := ⟨s.sp.val + 1, by omega⟩ } := by
  unfold State.push at h
  split at h
  · next hs => exact ⟨hs, by simpa using h.symm⟩
  · cases h

/-- A push on a stack with room. -/
theorem State.push_of_room {s : State} (w : Word) (h : s.sp.val < 16) :
    s.push w = some { s with stack := s.stack.set s.sp.val w, sp := ⟨s.sp.val + 1, by omega⟩ } := by
  unfold State.push
  rw [dif_pos h]

theorem State.push_eq_none_iff (s : State) (w : Word) : s.push w = none ↔ s.sp.val = 16 := by
  unfold State.push
  split
  · simp; omega
  · simp; omega

/-- A pop that succeeds: the stack was not empty, the value is its top, `SP` is one less, nothing else changed. -/
theorem State.pop_cases {s t : State} {w : Word} (h : s.pop = some (w, t)) :
    ∃ hs : 0 < s.sp.val, w = s.stack[s.sp.val - 1] ∧ t = { s with sp := ⟨s.sp.val - 1, by omega⟩ } := by
  unfold State.pop at h
  split at h
  · next hs => exact ⟨hs, by simpa using (congrArg Prod.fst (Option.some.inj h)).symm, by
      simpa using (congrArg Prod.snd (Option.some.inj h)).symm⟩
  · cases h

/-- A pop of a stack that is not empty. -/
theorem State.pop_of_entry {s : State} (h : 0 < s.sp.val) :
    s.pop = some (s.stack[s.sp.val - 1], { s with sp := ⟨s.sp.val - 1, by omega⟩ }) := by
  unfold State.pop
  rw [dif_pos h]

theorem State.pop_eq_none_iff (s : State) : s.pop = none ↔ s.sp.val = 0 := by
  unfold State.pop
  split
  · simp; omega
  · simp; omega

/-! ## Fetch -/

/-- Fetch gives an instruction exactly when the guard passes and the word at `PC` decodes to it. -/
theorem State.fetch_eq_ok_iff (s : State) (i : Instr) :
    s.fetch = .ok i ↔ fetchGuard s.pc = none ∧ decodeWord s.fetchWord = .ok i := by
  unfold State.fetch
  cases hg : fetchGuard s.pc with
  | some f => simp
  | none => cases hd : decodeWord s.fetchWord with
    | ok j => simp
    | error r => simp

/-- Fetch fails in one of two ways: the guard's fault, or a word that does not decode. -/
theorem State.fetch_eq_error {s : State} {f : Fault} (h : s.fetch = .error f) :
    fetchGuard s.pc = some f ∨
      (fetchGuard s.pc = none ∧ (∃ r, decodeWord s.fetchWord = .error r) ∧ f = .unknownOpcode s.fetchWord s.pc) := by
  unfold State.fetch at h
  cases hg : fetchGuard s.pc with
  | some g => rw [hg] at h; exact .inl (by simpa using h)
  | none =>
    rw [hg] at h
    cases hd : decodeWord s.fetchWord with
    | ok j => rw [hd] at h; simp at h
    | error r => rw [hd] at h; exact .inr ⟨rfl, ⟨r, rfl⟩, by simpa using h.symm⟩

/-! ## Block transfers -/

@[simp] theorem State.regBlock_length (s : State) (x : Reg) : (s.regBlock x).length = x.val + 1 := by
  simp [State.regBlock, blockCount]

/-- Byte `k` of the registers stored by `LD [I], Vx` is `V[k]`. -/
theorem State.regBlock_get (s : State) (x k : Reg) (h : k ≤ x) :
    (s.regBlock x)[k.val]'(by rw [State.regBlock_length]; exact Nat.lt_succ_of_le h) = s.getV k := by
  simp [State.regBlock, State.getV]

/-- The registers after a block load: those from `k` on that have a byte take it, the others keep their value. -/
theorem loadBlock_get (v : Vector Byte 16) (k : Nat) (bs : List Byte) (r : Nat) (hr : r < 16) :
    (loadBlock v k bs)[r] = if h : k ≤ r ∧ r - k < bs.length then bs[r - k]'h.2 else v[r] := by
  induction bs generalizing v k with
  | nil => simp [loadBlock]
  | cons b bs ih =>
    simp only [loadBlock]
    rw [ih]
    by_cases hk : r = k
    · subst hk
      simp
    · by_cases hle : k ≤ r
      · have hsub : r - k = (r - (k + 1)) + 1 := by omega
        have hne : k ≠ r := fun e => hk e.symm
        by_cases hlen : r - (k + 1) < bs.length
        · rw [dif_pos ⟨by omega, hlen⟩, dif_pos ⟨hle, by simp; omega⟩]
          simp [hsub]
        · rw [dif_neg (by omega), dif_neg (by simp; omega)]
          simp [hne]
      · rw [dif_neg (by omega), dif_neg (by omega)]
        have hne : k ≠ r := by omega
        simp [hne]

/-! ## Keys -/

/-- The least pressed key: it is pressed, and no lower one is. -/
theorem State.leastKey_eq_some {s : State} {k : Nat} (h : s.leastKey = some k) :
    ∃ hk : k < 16, s.keys[k] = true ∧ ∀ j (hj : j < k), s.keys[j] = false := by
  unfold State.leastKey at h
  rw [List.findIdx?_eq_some_iff_getElem] at h
  obtain ⟨hk, hp, hn⟩ := h
  have hk' : k < 16 := by simpa using hk
  refine ⟨hk', by simpa using hp, fun j hj => ?_⟩
  have := hn j hj
  simpa using this

/-- No key is found exactly when none is pressed. -/
theorem State.leastKey_eq_none_iff (s : State) : s.leastKey = none ↔ ∀ k : Key, s.keys[k] = false := by
  unfold State.leastKey
  rw [List.findIdx?_eq_none_iff]
  constructor
  · intro h k
    have := h s.keys[k] (by simp)
    simpa using this
  · intro h b hb
    obtain ⟨n, hn, rfl⟩ := List.getElem_of_mem hb
    have hn' : n < 16 := by simpa using hn
    simpa using h ⟨n, hn'⟩

end Sys2Proof.Machine
end

