-- ==== Sys2Proof/Laws/Display.lean ====
section
/-! SUPPORT. What the sprite blitter does to each pixel, and when it reports a collision. -/

namespace Sys2Proof.Machine

theorem FrameBuffer.pixel_setPixel (fb : FrameBuffer) (x y px py : Nat) (b : Bool) :
    FrameBuffer.pixel (FrameBuffer.setPixel fb x y b) px py =
      if x % 64 = px % 64 ∧ y % 32 = py % 32 then b else FrameBuffer.pixel fb px py := by
  by_cases hy : y % 32 = py % 32
  · by_cases hx : x % 64 = px % 64
    · simp [FrameBuffer.pixel, FrameBuffer.setPixel, hx, hy]
    · simp [FrameBuffer.pixel, FrameBuffer.setPixel, hx, hy]
  · simp [FrameBuffer.pixel, FrameBuffer.setPixel, hy]

/-- A clear framebuffer has no pixel set. -/
@[simp] theorem FrameBuffer.pixel_clear (px py : Nat) : FrameBuffer.pixel FrameBuffer.clear px py = false := by
  simp [FrameBuffer.pixel, FrameBuffer.clear]

/-- `FB[y][x]` is the pixel at `(x, y)`. -/
theorem FrameBuffer.pixel_fin (fb : FrameBuffer) (x : Fin 64) (y : Fin 32) :
    FrameBuffer.pixel fb x.val y.val = fb[y][x] := by
  have hx : x.val % 64 = x.val := Nat.mod_eq_of_lt x.isLt
  have hy : y.val % 32 = y.val := Nat.mod_eq_of_lt y.isLt
  simp [FrameBuffer.pixel, hx, hy]

/-! ## One sprite bit -/

theorem drawBit_hit (x y px py : Nat) (d : Canvas) (h : x % 64 = px % 64 ∧ y % 32 = py % 32) :
    FrameBuffer.pixel (drawBit true x y d).1 px py = !FrameBuffer.pixel d.1 px py := by
  have e : FrameBuffer.pixel d.1 x y = FrameBuffer.pixel d.1 px py := by simp [FrameBuffer.pixel, h.1, h.2]
  simp [drawBit, FrameBuffer.pixel_setPixel, h, e]

theorem drawBit_miss (bit : Bool) (x y px py : Nat) (d : Canvas)
    (h : ¬ (bit = true ∧ x % 64 = px % 64 ∧ y % 32 = py % 32)) :
    FrameBuffer.pixel (drawBit bit x y d).1 px py = FrameBuffer.pixel d.1 px py := by
  cases bit with
  | false => rfl
  | true =>
    have h' : ¬ (x % 64 = px % 64 ∧ y % 32 = py % 32) := fun hh => h ⟨rfl, hh⟩
    simp [drawBit, FrameBuffer.pixel_setPixel, h']

theorem drawBit_collision (bit : Bool) (x y : Nat) (d : Canvas) :
    (drawBit bit x y d).2 = (d.2 || (bit && FrameBuffer.pixel d.1 x y)) := by
  cases bit <;> simp [drawBit]

/-! ## One sprite row -/

/-- The columns `c` to `c + n - 1` of the row byte `b` drawn at `(x, y)` have a 1 bit on the pixel `(px, py)`. -/
def RowHits (b : Byte) (x y c n px py : Nat) : Prop :=
  ∃ j, c ≤ j ∧ j < c + n ∧ spriteBit b j = true ∧ (x + j) % 64 = px % 64 ∧ y % 32 = py % 32

theorem RowHits.succ_iff (b : Byte) (x y c n px py : Nat) :
    RowHits b x y c (n + 1) px py ↔
      (spriteBit b c = true ∧ (x + c) % 64 = px % 64 ∧ y % 32 = py % 32) ∨ RowHits b x y (c + 1) n px py := by
  constructor
  · rintro ⟨j, h1, h2, h3, h4, h5⟩
    by_cases hj : j = c
    · subst hj; exact .inl ⟨h3, h4, h5⟩
    · exact .inr ⟨j, by omega, by omega, h3, h4, h5⟩
  · rintro (⟨h3, h4, h5⟩ | ⟨j, h1, h2, h3, h4, h5⟩)
    · exact ⟨c, Nat.le_refl c, by omega, h3, h4, h5⟩
    · exact ⟨j, by omega, by omega, h3, h4, h5⟩

/-- Two columns of one row never fall on the same pixel. -/
theorem RowHits.not_first {b : Byte} {x y c n px py : Nat} (hn : n < 64) (h : RowHits b x y (c + 1) n px py) :
    ¬ ((x + c) % 64 = px % 64) := by
  obtain ⟨j, h1, h2, _, h4, _⟩ := h
  omega

/-- What drawing some columns of a row does to a pixel: a hit inverts it, a miss leaves it. -/
theorem drawColumns_pixel (b : Byte) (x y c n px py : Nat) (d : Canvas) (hn : n ≤ 64) :
    (RowHits b x y c n px py → FrameBuffer.pixel (drawColumns b x y c n d).1 px py = !FrameBuffer.pixel d.1 px py) ∧
    (¬ RowHits b x y c n px py → FrameBuffer.pixel (drawColumns b x y c n d).1 px py = FrameBuffer.pixel d.1 px py) := by
  induction n generalizing c d with
  | zero => exact ⟨fun ⟨j, h1, h2, _⟩ => by omega, fun _ => rfl⟩
  | succ n ih =>
    have ih' := ih (c + 1) (drawBit (spriteBit b c) (x + c) y d) (by omega)
    simp only [drawColumns]
    constructor
    · intro h
      rcases (RowHits.succ_iff ..).1 h with ⟨hb, hx, hy⟩ | hr
      · have hm : ¬ RowHits b x y (c + 1) n px py := fun hr => RowHits.not_first (by omega) hr hx
        rw [ih'.2 hm, hb, drawBit_hit _ _ _ _ _ ⟨hx, hy⟩]
      · rw [ih'.1 hr, drawBit_miss]
        exact fun hh => RowHits.not_first (by omega) hr hh.2.1
    · intro h
      rw [RowHits.succ_iff] at h
      rw [ih'.2 fun hr => h (.inr hr), drawBit_miss]
      exact fun hh => h (.inl hh)

/-- Drawing some columns of a row collides exactly when it inverts a pixel that was 1. -/
theorem drawColumns_collision (b : Byte) (x y c n : Nat) (d : Canvas) (hn : n ≤ 64) :
    (drawColumns b x y c n d).2 = true ↔
      d.2 = true ∨ ∃ px py, RowHits b x y c n px py ∧ FrameBuffer.pixel d.1 px py = true := by
  induction n generalizing c d with
  | zero =>
    constructor
    · exact fun h => .inl h
    · rintro (h | ⟨_, _, ⟨j, h1, h2, _⟩, _⟩)
      · exact h
      · omega
  | succ n ih =>
    simp only [drawColumns]
    rw [ih (c + 1) _ (by omega), drawBit_collision]
    simp only [Bool.or_eq_true, Bool.and_eq_true]
    constructor
    · rintro ((h | ⟨hb, hp⟩) | ⟨px, py, hr, hp⟩)
      · exact .inl h
      · exact .inr ⟨x + c, y, (RowHits.succ_iff ..).2 (.inl ⟨hb, rfl, rfl⟩), hp⟩
      · rw [drawBit_miss _ _ _ _ _ _ fun hh => RowHits.not_first (by omega) hr hh.2.1] at hp
        exact .inr ⟨px, py, (RowHits.succ_iff ..).2 (.inr hr), hp⟩
    · rintro (h | ⟨px, py, hr, hp⟩)
      · exact .inl (.inl h)
      · rcases (RowHits.succ_iff ..).1 hr with ⟨hb, hx, hy⟩ | hr'
        · have e : FrameBuffer.pixel d.1 (x + c) y = FrameBuffer.pixel d.1 px py := by simp [FrameBuffer.pixel, hx, hy]
          exact .inl (.inr ⟨hb, by rw [e]; exact hp⟩)
        · refine .inr ⟨px, py, hr', ?_⟩
          rw [drawBit_miss _ _ _ _ _ _ fun hh => RowHits.not_first (by omega) hr' hh.2.1]
          exact hp

/-! ## A sprite -/

/-- The sprite of the rows `bs` drawn at `(x, y)` has a 1 bit on the pixel `(px, py)`. -/
def SpriteHits (bs : List Byte) (x y px py : Nat) : Prop :=
  ∃ k, ∃ h : k < bs.length, RowHits bs[k] x (y + k) 0 8 px py

theorem SpriteHits.cons_iff (b : Byte) (bs : List Byte) (x y px py : Nat) :
    SpriteHits (b :: bs) x y px py ↔ RowHits b x y 0 8 px py ∨ SpriteHits bs x (y + 1) px py := by
  constructor
  · rintro ⟨k, hk, hr⟩
    cases k with
    | zero => exact .inl hr
    | succ k =>
      simp only [List.length_cons] at hk
      refine .inr ⟨k, by omega, ?_⟩
      rw [show y + 1 + k = y + (k + 1) by omega]
      exact hr
  · rintro (hr | ⟨k, hk, hr⟩)
    · exact ⟨0, by simp, hr⟩
    · refine ⟨k + 1, by simp; omega, ?_⟩
      rw [show y + (k + 1) = y + 1 + k by omega]
      exact hr

/-- A later row of a sprite of at most 32 rows never falls on the first one's pixels. -/
theorem SpriteHits.not_first {bs : List Byte} {x y px py : Nat} (hn : bs.length < 32) (h : SpriteHits bs x (y + 1) px py) :
    ¬ (y % 32 = py % 32) := by
  obtain ⟨k, hk, j, _, _, _, _, hy⟩ := h
  omega

/-- What a sprite does to a pixel: a hit inverts it, a miss leaves it. -/
theorem drawSprite_pixel (bs : List Byte) (x y px py : Nat) (d : Canvas) (hn : bs.length ≤ 32) :
    (SpriteHits bs x y px py → FrameBuffer.pixel (drawSprite x y bs d).1 px py = !FrameBuffer.pixel d.1 px py) ∧
    (¬ SpriteHits bs x y px py → FrameBuffer.pixel (drawSprite x y bs d).1 px py = FrameBuffer.pixel d.1 px py) := by
  induction bs generalizing y d with
  | nil => exact ⟨fun ⟨k, hk, _⟩ => by simp at hk, fun _ => rfl⟩
  | cons b bs ih =>
    simp only [List.length_cons] at hn
    have ih' := ih (y + 1) (drawRow b x y d) (by omega)
    have hrow := drawColumns_pixel b x y 0 8 px py d (by omega)
    simp only [drawSprite]
    rw [SpriteHits.cons_iff]
    constructor
    · rintro (hr | hs)
      · have hy : y % 32 = py % 32 := by obtain ⟨_, _, _, _, _, hy⟩ := hr; exact hy
        rw [ih'.2 fun hs => SpriteHits.not_first (by omega) hs hy]
        exact hrow.1 hr
      · rw [ih'.1 hs]
        have hm : ¬ RowHits b x y 0 8 px py := fun ⟨_, _, _, _, _, hy⟩ => SpriteHits.not_first (by omega) hs hy
        exact congrArg _ (hrow.2 hm)
    · intro h
      rw [ih'.2 fun hs => h (.inr hs)]
      exact hrow.2 fun hr => h (.inl hr)

/-- A sprite collides exactly when it inverts a pixel that was 1. -/
theorem drawSprite_collision (bs : List Byte) (x y : Nat) (d : Canvas) (hn : bs.length ≤ 32) :
    (drawSprite x y bs d).2 = true ↔
      d.2 = true ∨ ∃ px py, SpriteHits bs x y px py ∧ FrameBuffer.pixel d.1 px py = true := by
  induction bs generalizing y d with
  | nil =>
    constructor
    · exact fun h => .inl h
    · rintro (h | ⟨_, _, ⟨k, hk, _⟩, _⟩)
      · exact h
      · simp at hk
  | cons b bs ih =>
    simp only [List.length_cons] at hn
    simp only [drawSprite]
    rw [ih (y + 1) _ (by omega)]
    have hcol := drawColumns_collision b x y 0 8 d (by omega)
    have hmiss : ∀ px py, SpriteHits bs x (y + 1) px py →
        FrameBuffer.pixel (drawRow b x y d).1 px py = FrameBuffer.pixel d.1 px py := fun px py hs =>
      (drawColumns_pixel b x y 0 8 px py d (by omega)).2 fun ⟨_, _, _, _, _, hy⟩ =>
        SpriteHits.not_first (by omega) hs hy
    constructor
    · rintro (h | ⟨px, py, hs, hp⟩)
      · rcases hcol.1 h with h | ⟨px, py, hr, hp⟩
        · exact .inl h
        · exact .inr ⟨px, py, (SpriteHits.cons_iff ..).2 (.inl hr), hp⟩
      · exact .inr ⟨px, py, (SpriteHits.cons_iff ..).2 (.inr hs), by rw [← hmiss px py hs]; exact hp⟩
    · rintro (h | ⟨px, py, hs, hp⟩)
      · exact .inl (hcol.2 (.inl h))
      · rcases (SpriteHits.cons_iff ..).1 hs with hr | hs'
        · exact .inl (hcol.2 (.inr ⟨px, py, hr, hp⟩))
        · exact .inr ⟨px, py, hs', by rw [hmiss px py hs']; exact hp⟩

end Sys2Proof.Machine
end

