-- ==== Sys2Proof/Laws/Outputs.lean ====
section
/-! SUPPORT. The small lemmas of the outputs and results that the host observes. -/

namespace Sys2Proof.Machine

/-- `tone` is 1 exactly when `ST` is not 0 (60_exceptions.md R103). -/
theorem State.tone_iff (s : State) : s.tone = true ↔ s.st ≠ 0 := by simp [State.tone]

/-- `tone` depends on `ST` alone. -/
theorem State.tone_congr {s t : State} (h : t.st = s.st) : t.tone = s.tone := by rw [State.tone, State.tone, h]

@[simp] theorem State.pixelOut_eq (s : State) (x : Fin 64) (y : Fin 32) : s.pixelOut x y = s.fb[y][x] := rfl

/-- The code of the `FAULT` output on a machine that is not halted (R89). -/
theorem State.faultCode_of_none {s : State} (h : s.fault = none) : s.faultCode = 0 := by rw [State.faultCode, h]; rfl

/-- The code of the `FAULT` output on a halted machine is that of its record (R89). -/
theorem State.faultCode_of_some {s : State} {f : Fault} (h : s.fault = some f) : s.faultCode = f.code := by
  rw [State.faultCode, h]; rfl

/-- A program that fits is installed. -/
theorem loadResult_ok {bytes : List Byte} (h : bytes.length ≤ 3584) : loadResult bytes = .ok := by
  simp [loadResult, programFits, h]

/-- A longer program is rejected, with its length as the record (R94). -/
theorem loadResult_tooLarge {bytes : List Byte} (h : 3584 < bytes.length) : loadResult bytes = .programTooLarge bytes.length := by
  simp [loadResult, programFits, Nat.not_le.2 h]

end Sys2Proof.Machine
end

