-- ==== Sys2Proof/Laws/PerInstr.lean ====
section
/-! SUPPORT. Per instruction: its word lies in the row of the opcode table that bears its mnemonic (30_encoding.md R43). -/

namespace Sys2Proof.Laws.TableRow

/-- The encoding of `i` matches the row of R43 with the mnemonic of `i`. -/
def Statement (i : Instr) : Prop := ∃ row ∈ opcodeTable, row.mnemonic = i.mnemonic ∧ row.holds (encode i) = true

/-- Format `NNN`: the mask `0xF000` keeps the top nibble. -/
theorem packNNN_row (t : Nibble) (nnn : Addr) : packNNN t nnn &&& 0xF000 = packNNN t 0 := by
  rw [and_mask_F000, fieldT_packNNN]

/-- Format `XNN` with a free low byte: the mask `0xF000` keeps the top nibble. -/
theorem packXNN_row_F000 (t : Nibble) (x : Reg) (nn : Byte) : packXNN t x nn &&& 0xF000 = packNNN t 0 := by
  rw [and_mask_F000, fieldT_packXNN]

/-- Format `X`: the mask `0xF0FF` keeps the top nibble and the low byte. -/
theorem packXNN_row_F0FF (t : Nibble) (x : Reg) (nn : Byte) : packXNN t x nn &&& 0xF0FF = packXNN t 0 nn := by
  rw [and_mask_F0FF, fieldT_packXNN, fieldNN_packXNN]

/-- Format `XY`: the mask `0xF00F` keeps the top and the low nibble. -/
theorem packXYN_row_F00F (t n : Nibble) (x y : Reg) : packXYN t x y n &&& 0xF00F = packXYN t 0 0 n := by
  rw [and_mask_F00F, fieldT_packXYN, fieldN_packXYN]

/-- Format `XYN`: the mask `0xF000` keeps the top nibble. -/
theorem packXYN_row_F000 (t n : Nibble) (x y : Reg) : packXYN t x y n &&& 0xF000 = packNNN t 0 := by
  rw [and_mask_F000, fieldT_packXYN]

theorem cls : Statement .cls :=
  ⟨⟨"CLS", 0xFFFF, 0x00E0⟩, by decide, rfl, by decide⟩

theorem ret : Statement .ret :=
  ⟨⟨"RET", 0xFFFF, 0x00EE⟩, by decide, rfl, by decide⟩

theorem jp (nnn : Addr) : Statement (.jp nnn) :=
  ⟨⟨"JP_NNN", 0xF000, 0x1000⟩, by decide, rfl, by
    simp only [OpcodeRow.holds, encode, packNNN_row]; decide⟩

theorem call (nnn : Addr) : Statement (.call nnn) :=
  ⟨⟨"CALL_NNN", 0xF000, 0x2000⟩, by decide, rfl, by
    simp only [OpcodeRow.holds, encode, packNNN_row]; decide⟩

theorem seImm (x : Reg) (nn : Byte) : Statement (.seImm x nn) :=
  ⟨⟨"SE_VX_NN", 0xF000, 0x3000⟩, by decide, rfl, by
    simp only [OpcodeRow.holds, encode, packXNN_row_F000]; decide⟩

theorem sneImm (x : Reg) (nn : Byte) : Statement (.sneImm x nn) :=
  ⟨⟨"SNE_VX_NN", 0xF000, 0x4000⟩, by decide, rfl, by
    simp only [OpcodeRow.holds, encode, packXNN_row_F000]; decide⟩

theorem seReg (x y : Reg) : Statement (.seReg x y) :=
  ⟨⟨"SE_VX_VY", 0xF00F, 0x5000⟩, by decide, rfl, by
    simp only [OpcodeRow.holds, encode, packXYN_row_F00F]; decide⟩

theorem ldImm (x : Reg) (nn : Byte) : Statement (.ldImm x nn) :=
  ⟨⟨"LD_VX_NN", 0xF000, 0x6000⟩, by decide, rfl, by
    simp only [OpcodeRow.holds, encode, packXNN_row_F000]; decide⟩

theorem addImm (x : Reg) (nn : Byte) : Statement (.addImm x nn) :=
  ⟨⟨"ADD_VX_NN", 0xF000, 0x7000⟩, by decide, rfl, by
    simp only [OpcodeRow.holds, encode, packXNN_row_F000]; decide⟩

theorem ldReg (x y : Reg) : Statement (.ldReg x y) :=
  ⟨⟨"LD_VX_VY", 0xF00F, 0x8000⟩, by decide, rfl, by
    simp only [OpcodeRow.holds, encode, packXYN_row_F00F]; decide⟩

theorem orReg (x y : Reg) : Statement (.orReg x y) :=
  ⟨⟨"OR_VX_VY", 0xF00F, 0x8001⟩, by decide, rfl, by
    simp only [OpcodeRow.holds, encode, packXYN_row_F00F]; decide⟩

theorem andReg (x y : Reg) : Statement (.andReg x y) :=
  ⟨⟨"AND_VX_VY", 0xF00F, 0x8002⟩, by decide, rfl, by
    simp only [OpcodeRow.holds, encode, packXYN_row_F00F]; decide⟩

theorem xorReg (x y : Reg) : Statement (.xorReg x y) :=
  ⟨⟨"XOR_VX_VY", 0xF00F, 0x8003⟩, by decide, rfl, by
    simp only [OpcodeRow.holds, encode, packXYN_row_F00F]; decide⟩

theorem addReg (x y : Reg) : Statement (.addReg x y) :=
  ⟨⟨"ADD_VX_VY", 0xF00F, 0x8004⟩, by decide, rfl, by
    simp only [OpcodeRow.holds, encode, packXYN_row_F00F]; decide⟩

theorem subReg (x y : Reg) : Statement (.subReg x y) :=
  ⟨⟨"SUB_VX_VY", 0xF00F, 0x8005⟩, by decide, rfl, by
    simp only [OpcodeRow.holds, encode, packXYN_row_F00F]; decide⟩

theorem shr (x y : Reg) : Statement (.shr x y) :=
  ⟨⟨"SHR_VX", 0xF00F, 0x8006⟩, by decide, rfl, by
    simp only [OpcodeRow.holds, encode, packXYN_row_F00F]; decide⟩

theorem subnReg (x y : Reg) : Statement (.subnReg x y) :=
  ⟨⟨"SUBN_VX_VY", 0xF00F, 0x8007⟩, by decide, rfl, by
    simp only [OpcodeRow.holds, encode, packXYN_row_F00F]; decide⟩

theorem shl (x y : Reg) : Statement (.shl x y) :=
  ⟨⟨"SHL_VX", 0xF00F, 0x800E⟩, by decide, rfl, by
    simp only [OpcodeRow.holds, encode, packXYN_row_F00F]; decide⟩

theorem sneReg (x y : Reg) : Statement (.sneReg x y) :=
  ⟨⟨"SNE_VX_VY", 0xF00F, 0x9000⟩, by decide, rfl, by
    simp only [OpcodeRow.holds, encode, packXYN_row_F00F]; decide⟩

theorem ldI (nnn : Addr) : Statement (.ldI nnn) :=
  ⟨⟨"LD_I_NNN", 0xF000, 0xA000⟩, by decide, rfl, by
    simp only [OpcodeRow.holds, encode, packNNN_row]; decide⟩

theorem jpV0 (nnn : Addr) : Statement (.jpV0 nnn) :=
  ⟨⟨"JP_V0_NNN", 0xF000, 0xB000⟩, by decide, rfl, by
    simp only [OpcodeRow.holds, encode, packNNN_row]; decide⟩

theorem rnd (x : Reg) (nn : Byte) : Statement (.rnd x nn) :=
  ⟨⟨"RND_VX_NN", 0xF000, 0xC000⟩, by decide, rfl, by
    simp only [OpcodeRow.holds, encode, packXNN_row_F000]; decide⟩

theorem drw (x y : Reg) (n : Nibble) : Statement (.drw x y n) :=
  ⟨⟨"DRW_VX_VY_N", 0xF000, 0xD000⟩, by decide, rfl, by
    simp only [OpcodeRow.holds, encode, packXYN_row_F000]; decide⟩

theorem skp (x : Reg) : Statement (.skp x) :=
  ⟨⟨"SKP_VX", 0xF0FF, 0xE09E⟩, by decide, rfl, by
    simp only [OpcodeRow.holds, encode, packXNN_row_F0FF]; decide⟩

theorem sknp (x : Reg) : Statement (.sknp x) :=
  ⟨⟨"SKNP_VX", 0xF0FF, 0xE0A1⟩, by decide, rfl, by
    simp only [OpcodeRow.holds, encode, packXNN_row_F0FF]; decide⟩

theorem ldVxDt (x : Reg) : Statement (.ldVxDt x) :=
  ⟨⟨"LD_VX_DT", 0xF0FF, 0xF007⟩, by decide, rfl, by
    simp only [OpcodeRow.holds, encode, packXNN_row_F0FF]; decide⟩

theorem ldVxK (x : Reg) : Statement (.ldVxK x) :=
  ⟨⟨"LD_VX_K", 0xF0FF, 0xF00A⟩, by decide, rfl, by
    simp only [OpcodeRow.holds, encode, packXNN_row_F0FF]; decide⟩

theorem ldDtVx (x : Reg) : Statement (.ldDtVx x) :=
  ⟨⟨"LD_DT_VX", 0xF0FF, 0xF015⟩, by decide, rfl, by
    simp only [OpcodeRow.holds, encode, packXNN_row_F0FF]; decide⟩

theorem ldStVx (x : Reg) : Statement (.ldStVx x) :=
  ⟨⟨"LD_ST_VX", 0xF0FF, 0xF018⟩, by decide, rfl, by
    simp only [OpcodeRow.holds, encode, packXNN_row_F0FF]; decide⟩

theorem addI (x : Reg) : Statement (.addI x) :=
  ⟨⟨"ADD_I_VX", 0xF0FF, 0xF01E⟩, by decide, rfl, by
    simp only [OpcodeRow.holds, encode, packXNN_row_F0FF]; decide⟩

theorem ldF (x : Reg) : Statement (.ldF x) :=
  ⟨⟨"LD_F_VX", 0xF0FF, 0xF029⟩, by decide, rfl, by
    simp only [OpcodeRow.holds, encode, packXNN_row_F0FF]; decide⟩

theorem ldB (x : Reg) : Statement (.ldB x) :=
  ⟨⟨"LD_B_VX", 0xF0FF, 0xF033⟩, by decide, rfl, by
    simp only [OpcodeRow.holds, encode, packXNN_row_F0FF]; decide⟩

theorem ldMiVx (x : Reg) : Statement (.ldMiVx x) :=
  ⟨⟨"LD_MI_VX", 0xF0FF, 0xF055⟩, by decide, rfl, by
    simp only [OpcodeRow.holds, encode, packXNN_row_F0FF]; decide⟩

theorem ldVxMi (x : Reg) : Statement (.ldVxMi x) :=
  ⟨⟨"LD_VX_MI", 0xF0FF, 0xF065⟩, by decide, rfl, by
    simp only [OpcodeRow.holds, encode, packXNN_row_F0FF]; decide⟩

end Sys2Proof.Laws.TableRow
end

