-- ==== Sys2Proof/Laws/Step.lean ====
section
/-! SUPPORT. One step by cases: which event was performed and what it did; no instruction looks at the schedule. -/

namespace Sys2Proof.Machine

/-- A `STEP` event that answers a next state, in its three cases (30_encoding.md R47): halted, a fault of the fetch taken, or
the decoded instruction executed. -/
theorem stepEvent_cases {s t : State} (h : stepEvent s = .next t) :
    (s.fault.isSome ∧ t = s) ∨
    (s.fault = none ∧ ∃ f, s.fetch = .error f ∧ t = s.setFault f) ∨
    (s.fault = none ∧ ∃ i, s.fetch = .ok i ∧ exec i s = .next t) := by
  unfold stepEvent at h
  cases hf : s.fault with
  | some f => rw [hf] at h; exact .inl ⟨rfl, by simpa using h.symm⟩
  | none =>
    rw [hf] at h
    cases hi : s.fetch with
    | error f => rw [hi] at h; exact .inr (.inl ⟨rfl, f, rfl, by simpa [State.raise] using h.symm⟩)
    | ok i => rw [hi] at h; exact .inr (.inr ⟨rfl, i, rfl, h⟩)

/-- An event that needs a reset machine answers a next state only on one. -/
theorem onceReset_cases {s t : State} {r : Result} (h : onceReset s r = .next t) : s.ready = true ∧ r = .next t := by
  unfold onceReset at h
  split at h
  · next hr => exact ⟨hr, h⟩
  · cases h

theorem onceReset_ready {s : State} {r : Result} (h : s.ready = true) : onceReset s r = r := by
  simp [onceReset, h]

/-- A step that answers a next state, by the event it performed. -/
theorem step_cases {s t : State} (h : step s = .next t) :
    (s.nextEvent = .init ∧ t = s.popEvent.initMachine) ∨
    (∃ bytes, s.nextEvent = .load bytes ∧ t = s.popEvent.load bytes) ∨
    (s.nextEvent = .step ∧ s.ready = true ∧ stepEvent s.popEvent = .next t) ∨
    (s.nextEvent = .tick ∧ s.ready = true ∧ t = s.popEvent.tick) ∨
    (∃ k p, s.nextEvent = .setKey k p ∧ s.ready = true ∧ t = s.popEvent.setKey k p) := by
  unfold step at h
  cases he : s.nextEvent with
  | init => rw [he] at h; exact .inl ⟨rfl, by simpa using h.symm⟩
  | load bytes => rw [he] at h; exact .inr (.inl ⟨bytes, rfl, by simpa using h.symm⟩)
  | step =>
    rw [he] at h
    exact .inr (.inr (.inl ⟨rfl, onceReset_cases h⟩))
  | tick =>
    rw [he] at h
    obtain ⟨hr, hn⟩ := onceReset_cases h
    exact .inr (.inr (.inr (.inl ⟨rfl, hr, by simpa using hn.symm⟩)))
  | setKey k p =>
    rw [he] at h
    obtain ⟨hr, hn⟩ := onceReset_cases h
    exact .inr (.inr (.inr (.inr ⟨k, p, rfl, hr, by simpa using hn.symm⟩)))

/-- Taking an event off the schedule leaves what fetch reads alone. -/
@[simp] theorem State.fetch_popEvent (s : State) : s.popEvent.fetch = s.fetch := rfl

/-- No instruction looks at the host's schedule: executed with an event taken off, it does the same and the event stays off. -/
theorem exec_popEvent {i : Instr} {s t : State} (h : exec i s = .next t) : exec i s.popEvent = .next t.popEvent := by
  cases i
  case ret =>
    simp only [exec, execRet] at h ⊢
    cases hp : s.pop with
    | none =>
      rw [hp] at h
      rw [show s.popEvent.pop = none from (State.pop_eq_none_iff s.popEvent).2 ((State.pop_eq_none_iff s).1 hp)]
      cases h; rfl
    | some wt =>
      obtain ⟨w, u⟩ := wt
      rw [hp] at h
      obtain ⟨hs, rfl, rfl⟩ := State.pop_cases hp
      rw [State.pop_of_entry (s := s.popEvent) hs]
      cases h; rfl
  case call nnn =>
    simp only [exec, execCall] at h ⊢
    cases hp : s.push (s.pc + 2) with
    | none =>
      rw [hp] at h
      rw [show s.popEvent.push (s.popEvent.pc + 2) = none from
        (State.push_eq_none_iff s.popEvent _).2 ((State.push_eq_none_iff s _).1 hp)]
      cases h; rfl
    | some u =>
      rw [hp] at h
      obtain ⟨hs, rfl⟩ := State.push_cases hp
      rw [State.push_of_room (s := s.popEvent) _ hs]
      cases h; rfl
  case ldVxK x =>
    simp only [exec, execLdVxK] at h ⊢
    rw [show s.popEvent.leastKey = s.leastKey from rfl]
    cases hk : s.leastKey <;> rw [hk] at h <;> cases h <;> rfl
  case drw x y n =>
    obtain ⟨hg, rfl⟩ | ⟨f, hg, rfl⟩ := State.guarded_cases h <;>
      (simp only [exec, execDrw]; rw [show s.popEvent.i = s.i from rfl, hg]; rfl)
  case ldB x =>
    obtain ⟨hg, rfl⟩ | ⟨f, hg, rfl⟩ := State.guarded_cases h <;>
      (simp only [exec, execLdB]; rw [show s.popEvent.i = s.i from rfl, hg]; rfl)
  case ldMiVx x =>
    obtain ⟨hg, rfl⟩ | ⟨f, hg, rfl⟩ := State.guarded_cases h <;>
      (simp only [exec, execLdMiVx]; rw [show s.popEvent.i = s.i from rfl, hg]; rfl)
  case ldVxMi x =>
    obtain ⟨hg, rfl⟩ | ⟨f, hg, rfl⟩ := State.guarded_cases h <;>
      (simp only [exec, execLdVxMi]; rw [show s.popEvent.i = s.i from rfl, hg]; rfl)
  case seImm x nn => simp only [exec, execSeImm, State.skipIf_eq] at h ⊢; cases h; rfl
  case sneImm x nn => simp only [exec, execSneImm, State.skipIf_eq] at h ⊢; cases h; rfl
  case seReg x y => simp only [exec, execSeReg, State.skipIf_eq] at h ⊢; cases h; rfl
  case sneReg x y => simp only [exec, execSneReg, State.skipIf_eq] at h ⊢; cases h; rfl
  case skp x => simp only [exec, execSkp, State.skipIf_eq] at h ⊢; cases h; rfl
  case sknp x => simp only [exec, execSknp, State.skipIf_eq] at h ⊢; cases h; rfl
  all_goals cases h; rfl

/-- Nor does a `STEP` event. -/
theorem stepEvent_popEvent {s t : State} (h : stepEvent s = .next t) : stepEvent s.popEvent = .next t.popEvent := by
  unfold stepEvent at h ⊢
  rw [show s.popEvent.fault = s.fault from rfl, State.fetch_popEvent]
  cases hf : s.fault with
  | some f => rw [hf] at h; cases h; rfl
  | none =>
    rw [hf] at h
    cases hi : s.fetch with
    | error f => rw [hi] at h; cases h; rfl
    | ok i => rw [hi] at h; exact exec_popEvent h

/-- A program that fits is installed over the reset memory. -/
theorem State.load_fits {s : State} {bytes : List Byte} (h : bytes.length ≤ 3584) :
    s.load bytes = s.initMachine.setMem (Memory.writeBytes [] 0x200 bytes) := by
  simp [State.load, programFits, h, State.reset]

/-- A program that is too large changes nothing. -/
theorem State.load_rejected {s : State} {bytes : List Byte} (h : 3584 < bytes.length) : s.load bytes = s := by
  simp [State.load, programFits, Nat.not_le.2 h]

end Sys2Proof.Machine
end

