-- ==== Sys2Proof/Tests/Slice0.lean ====
section
/-! SUPPORT. Tests. Expected results are the spec's: decode words from the patterns of 30_encoding.md R43, one-step results from
the vectors of 95_test_vectors.md (their ids are in the docstrings). Then a witness for the hypotheses of each statement. -/

namespace Sys2Proof.Tests

open Sys2Proof Sys2Proof.Machine

/-! ## Decoding: every row of the table, the word written bit by bit from R43 -/

/-- `JP` 1NNN, `CALL` 2NNN, `RET` 00EE, `JP V0` BNNN, and the skips 3XNN 4XNN 5XY0 9XY0. -/
theorem test_decode_control :
    decodeWord 0b0001_0010_0011_0100 = .ok (.jp 0x234) ∧ decodeWord 0b0010_1111_1110_1101 = .ok (.call 0xFED) ∧
    decodeWord 0b0000_0000_1110_1110 = .ok .ret ∧ decodeWord 0b1011_0011_0000_0001 = .ok (.jpV0 0x301) ∧
    decodeWord 0b0011_0011_0010_1010 = .ok (.seImm 3 0x2A) ∧ decodeWord 0b0100_1100_1000_0001 = .ok (.sneImm 12 0x81) ∧
    decodeWord 0b0101_0001_0010_0000 = .ok (.seReg 1 2) ∧ decodeWord 0b1001_1110_0111_0000 = .ok (.sneReg 14 7) := by decide

/-- 6XNN, 8XY0, ANNN, FX55, FX65, FX33, FX29. -/
theorem test_decode_load_store :
    decodeWord 0b0110_1010_0111_1111 = .ok (.ldImm 10 0x7F) ∧ decodeWord 0b1000_0001_0010_0000 = .ok (.ldReg 1 2) ∧
    decodeWord 0b1010_0010_0101_0000 = .ok (.ldI 0x250) ∧ decodeWord 0b1111_0010_0101_0101 = .ok (.ldMiVx 2) ∧
    decodeWord 0b1111_1111_0110_0101 = .ok (.ldVxMi 15) ∧ decodeWord 0b1111_0011_0011_0011 = .ok (.ldB 3) ∧
    decodeWord 0b1111_0001_0010_1001 = .ok (.ldF 1) := by decide

/-- 7XNN, 8XY1 to 8XY7, 8XYE, CXNN, FX1E. -/
theorem test_decode_arith :
    decodeWord 0b0111_0001_0000_0101 = .ok (.addImm 1 0x05) ∧ decodeWord 0b1000_0001_0010_0001 = .ok (.orReg 1 2) ∧
    decodeWord 0b1000_0001_0010_0010 = .ok (.andReg 1 2) ∧ decodeWord 0b1000_0001_0010_0011 = .ok (.xorReg 1 2) ∧
    decodeWord 0b1000_0001_0010_0100 = .ok (.addReg 1 2) ∧ decodeWord 0b1000_0001_0010_0101 = .ok (.subReg 1 2) ∧
    decodeWord 0b1000_0001_0010_0110 = .ok (.shr 1 2) ∧ decodeWord 0b1000_0001_0010_0111 = .ok (.subnReg 1 2) ∧
    decodeWord 0b1000_0001_0010_1110 = .ok (.shl 1 2) ∧ decodeWord 0b1100_0001_0000_1111 = .ok (.rnd 1 0x0F) ∧
    decodeWord 0b1111_0010_0001_1110 = .ok (.addI 2) := by decide

/-- 00E0, DXYN, FX07, FX15, FX18, EX9E, EXA1, FX0A. -/
theorem test_decode_display_timers_input :
    decodeWord 0b0000_0000_1110_0000 = .ok .cls ∧ decodeWord 0b1101_0001_0010_1111 = .ok (.drw 1 2 15) ∧
    decodeWord 0b1111_0011_0000_0111 = .ok (.ldVxDt 3) ∧ decodeWord 0b1111_0011_0001_0101 = .ok (.ldDtVx 3) ∧
    decodeWord 0b1111_0011_0001_1000 = .ok (.ldStVx 3) ∧ decodeWord 0b1110_0001_1001_1110 = .ok (.skp 1) ∧
    decodeWord 0b1110_0001_1010_0001 = .ok (.sknp 1) ∧ decodeWord 0b1111_1111_0000_1010 = .ok (.ldVxK 15) := by decide

/-- X1 to X9, X11: illegal words are rejected by name; fewer than two bytes are not an instruction (R38). -/
theorem test_decode_rejects :
    decodeWord 0x0000 = .error (.unknownOpcode 0x0000) ∧ decodeWord 0x0123 = .error (.unknownOpcode 0x0123) ∧
    decodeWord 0x5121 = .error (.unknownOpcode 0x5121) ∧ decodeWord 0x9121 = .error (.unknownOpcode 0x9121) ∧
    decodeWord 0x812F = .error (.unknownOpcode 0x812F) ∧ decodeWord 0xE19F = .error (.unknownOpcode 0xE19F) ∧
    decodeWord 0xF175 = .error (.unknownOpcode 0xF175) ∧ decodeBytes [0x12] = .error (.truncated 1) := by decide

/-- High byte first (20_memory.md R25), in memory and in the table's numbering. -/
theorem test_byte_order :
    decodeBytes [0x12, 0x34, 0xAA] = .ok (.jp 0x234, [0xAA]) ∧ encodeBytes (.jp 0x234) = [0x12, 0x34] ∧
    decodeTableWord 16 0x1234 = some (.jp 0x234) ∧ decodeTableWord 16 0x0000 = none := by decide

/-! ## WellFormed: an ill-formed word for each check, which the check refuses (R44) -/

theorem test_wellFormed_check0 : WellFormed.check0 0x0123 = false ∧ WellFormed.word 0x0123 = false ∧ WellFormed.word 0x00E0 = true := by decide
theorem test_wellFormed_check5 : WellFormed.check5 0x5121 = false ∧ WellFormed.word 0x5121 = false ∧ WellFormed.word 0x5120 = true := by decide
theorem test_wellFormed_check8 : WellFormed.check8 0x8128 = false ∧ WellFormed.word 0x8128 = false ∧ WellFormed.word 0x812E = true := by decide
theorem test_wellFormed_check9 : WellFormed.check9 0x912F = false ∧ WellFormed.word 0x912F = false ∧ WellFormed.word 0x9120 = true := by decide
theorem test_wellFormed_checkE : WellFormed.checkE 0xE19F = false ∧ WellFormed.word 0xE19F = false ∧ WellFormed.word 0xE19E = true := by decide
theorem test_wellFormed_checkF : WellFormed.checkF 0xF100 = false ∧ WellFormed.word 0xF100 = false ∧ WellFormed.word 0xF165 = true := by decide

/-! ## One step from a small state -/

/-- The reset state with the word `op` placed at `0x200`: the start state of the spec's vectors. -/
def start (op : Word) : State := { State.reset with mem := Memory.writeBytes [] 0x200 [highByte op, lowByte op] }

/-- What `f` sees of the state after one step. -/
def after {α : Type} (s : State) (f : State → α) : Option α :=
  match step s with
  | .next t => some (f t)
  | .fault _ => none
  | .refused _ => none

/-- T1 -/
theorem test_jp : after (start 0x1234) (·.pc) = some 0x0234 := by decide
/-- T5, T6 -/
theorem test_call : after { start 0x2300 with sp := 15 } (fun t => (t.pc, t.sp, t.stack[15])) = some (0x0300, 16, 0x0202) ∧
    after { start 0x2300 with sp := 16 } (fun t => (t.pc, t.sp, t.fault)) = some (0x0200, 16, some (.stackOverflow 0x0200)) := by decide
/-- T9, T8 -/
theorem test_ret :
    after { start 0x00EE with sp := 16, stack := State.reset.stack.set 15 0x0ABC } (fun t => (t.pc, t.sp, t.stack[15])) =
      some (0x0ABC, 15, 0x0ABC) ∧
    after (start 0x00EE) (fun t => (t.pc, t.sp, t.fault)) = some (0x0200, 0, some (.stackUnderflow 0x0200)) := by decide
/-- T11, T12 -/
theorem test_jpV0 : after ((start 0xBFFF).setV 0 0xFF) (·.pc) = some 0x10FE ∧
    after ((start 0xB300).setV 3 0x10) (·.pc) = some 0x0300 := by decide
/-- T13, T14 -/
theorem test_seImm : after ((start 0x332A).setV 3 0x2A) (·.pc) = some 0x0204 ∧
    after ((start 0x332A).setV 3 0x2B) (·.pc) = some 0x0202 := by decide
/-- T15, T16 -/
theorem test_sneImm : after ((start 0x432A).setV 3 0x2A) (·.pc) = some 0x0202 ∧ after (start 0x432A) (·.pc) = some 0x0204 := by decide
/-- T17, T18 -/
theorem test_seReg : after (((start 0x5120).setV 1 7).setV 2 7) (·.pc) = some 0x0204 ∧
    after (((start 0x5120).setV 1 7).setV 2 8) (·.pc) = some 0x0202 := by decide
/-- T20, T22 -/
theorem test_sneReg : after (((start 0x9120).setV 1 7).setV 2 8) (·.pc) = some 0x0204 ∧
    after ((start 0x9330).setV 3 9) (·.pc) = some 0x0202 := by decide
/-- T25: an instruction at the highest fetch address; the skip leaves `PC` above memory. -/
theorem test_skip_at_the_top :
    after { State.reset with pc := 0x0FFE, mem := Memory.writeBytes [] 0xFFE [0x30, 0x00] } (·.pc) = some 0x1002 := by decide

/-- L1 -/
theorem test_ldImm : after (start 0x6A7F) (fun t => (t.getV 10, t.pc)) = some (0x7F, 0x0202) := by decide
/-- L3, L4 -/
theorem test_ldReg : after ((start 0x8120).setV 2 0x33) (fun t => (t.getV 1, t.getV 2)) = some (0x33, 0x33) ∧
    after ((start 0x8F10).setV 1 0x44) (·.getV 15) = some 0x44 := by decide
/-- L6 -/
theorem test_ldI : after (start 0xAFFF) (·.i) = some 0x0FFF := by decide
/-- L7: `V3` is not stored, `I` stays. -/
theorem test_ldMiVx :
    after { start 0xF255 with i := 0x0300, v := (((State.reset.v.set 0 1).set 1 2).set 2 3).set 3 4 }
      (fun t => (t.mem.readBytes 0x300 4, t.i, t.pc)) = some ([1, 2, 3, 0], 0x0300, 0x0202) := by decide
/-- L9, L10 -/
theorem test_ldMiVx_faults :
    after ({ start 0xF155 with i := 0x0FFF }.setV 0 0xAB) (fun t => (t.fault, t.mem.read 0xFFF, t.pc)) =
      some (some (.addressOutOfRange .write 0x1000), 0x00, 0x0200) ∧
    after ({ start 0xF055 with i := 0x01FF }.setV 0 0xAB) (·.fault) = some (some (.addressOutOfRange .write 0x01FF)) := by decide
/-- L14, L15 -/
theorem test_ldVxMi :
    after { start 0xF165 with i := 0x0300, mem := (start 0xF165).mem.writeBytes 0x300 [0xAA, 0xBB, 0xCC] }
      (fun t => (t.getV 0, t.getV 1, t.getV 2, t.i)) = some (0xAA, 0xBB, 0x00, 0x0300) ∧
    after { start 0xF265 with i := 0x0050 } (fun t => (t.getV 0, t.getV 1, t.getV 2)) = some (0xF0, 0x90, 0x90) := by decide
/-- L17, L18 -/
theorem test_ldVxMi_faults :
    after { start 0xF165 with i := 0x0FFF } (fun t => (t.fault, t.getV 0)) = some (some (.addressOutOfRange .read 0x1000), 0x00) ∧
    after { start 0xF065 with i := 0x1234 } (·.fault) = some (some (.addressOutOfRange .read 0x1234)) := by decide
/-- L20, L23 -/
theorem test_ldB :
    after ({ start 0xF033 with i := 0x0300 }.setV 0 0x9D) (fun t => t.mem.readBytes 0x300 3) = some [1, 5, 7] ∧
    after ({ start 0xF333 with i := 0x0FFD }.setV 3 0x7B) (fun t => t.mem.readBytes 0xFFD 3) = some [1, 2, 3] := by decide
/-- L24, L25 -/
theorem test_ldB_faults :
    after ({ start 0xF333 with i := 0x0FFE }.setV 3 0x7B) (·.fault) = some (some (.addressOutOfRange .write 0x1000)) ∧
    after ({ start 0xF333 with i := 0x01FE }.setV 3 0x7B) (·.fault) = some (some (.addressOutOfRange .write 0x01FE)) := by decide
/-- The table of 20_memory.md R24: the digits 7, A and D. -/
theorem test_font :
    State.reset.mem.readBytes 0x073 5 = [0xF0, 0x10, 0x20, 0x40, 0x40] ∧ State.reset.mem.readBytes 0x082 5 = [0xF0, 0x90, 0xF0, 0x90, 0x90] ∧
    State.reset.mem.readBytes 0x091 5 = [0xE0, 0x90, 0xE0, 0x90, 0xE0] := by decide
/-- L27, L29 -/
theorem test_ldF : after ((start 0xF129).setV 1 0x1A) (·.i) = some 0x0082 ∧ after ((start 0xF129).setV 1 0x0F) (·.i) = some 0x009B := by decide

/-- A1, A4 -/
theorem test_addImm : after (((start 0x7105).setV 1 0xFE).setV 15 0x55) (fun t => (t.getV 1, t.getV 15)) = some (0x03, 0x55) ∧
    after ((start 0x7F01).setV 15 0xFF) (·.getV 15) = some 0x00 := by decide
/-- A5 -/
theorem test_orReg : after ((((start 0x8121).setV 1 0xF0).setV 2 0x0F).setV 15 1) (fun t => (t.getV 1, t.getV 15)) = some (0xFF, 0x01) := by decide
/-- A6 -/
theorem test_andReg : after ((((start 0x8122).setV 1 0xF3).setV 2 0x3F).setV 15 1) (fun t => (t.getV 1, t.getV 15)) = some (0x33, 0x01) := by decide
/-- A7 -/
theorem test_xorReg : after ((((start 0x8123).setV 1 0xFF).setV 2 0x0F).setV 15 1) (fun t => (t.getV 1, t.getV 15)) = some (0xF0, 0x01) := by decide
/-- A9, A14 -/
theorem test_addReg : after (((start 0x8124).setV 1 0xC8).setV 2 0x64) (fun t => (t.getV 1, t.getV 15)) = some (0x2C, 0x01) ∧
    after (((start 0x8F14).setV 15 0xF0).setV 1 0x20) (·.getV 15) = some 0x01 := by decide
/-- A16: the old `VF` is the operand. -/
theorem test_addReg_reads_first : after (((start 0x81F4).setV 1 1).setV 15 1) (fun t => (t.getV 1, t.getV 15)) = some (0x02, 0x00) := by decide
/-- A18, A19 -/
theorem test_subReg : after ((((start 0x8125).setV 1 0x05).setV 2 0x0A).setV 15 1) (fun t => (t.getV 1, t.getV 15)) = some (0xFB, 0x00) ∧
    after (((start 0x8125).setV 1 7).setV 2 7) (fun t => (t.getV 1, t.getV 15)) = some (0x00, 0x01) := by decide
/-- A23, A24 -/
theorem test_subnReg : after (((start 0x8127).setV 1 0x05).setV 2 0x0A) (fun t => (t.getV 1, t.getV 15)) = some (0x05, 0x01) ∧
    after ((((start 0x8127).setV 1 0x0A).setV 2 0x05).setV 15 1) (fun t => (t.getV 1, t.getV 15)) = some (0xFB, 0x00) := by decide
/-- A27, A31 -/
theorem test_shr : after ((((start 0x8126).setV 1 0x04).setV 2 0xFF).setV 15 1) (fun t => (t.getV 1, t.getV 2, t.getV 15)) = some (0x02, 0xFF, 0x00) ∧
    after ((start 0x8F06).setV 15 0x03) (·.getV 15) = some 0x01 := by decide
/-- A33, A36 -/
theorem test_shl : after ((((start 0x812E).setV 1 0x40).setV 2 0xFF).setV 15 1) (fun t => (t.getV 1, t.getV 2, t.getV 15)) = some (0x80, 0xFF, 0x00) ∧
    after ((start 0x8F0E).setV 15 0x81) (·.getV 15) = some 0x01 := by decide
/-- A39 has a result for every draw; the draw is free. -/
theorem test_rnd : after ((start 0xC100).setV 1 0x55) (fun t => (t.pc, t.draws)) = some (0x0202, 1) := by decide
/-- A43, A44 -/
theorem test_addI : after ({ start 0xF21E with i := 0xFFFF }.setV 2 0x02) (·.i) = some 0x0001 ∧
    after ({ start 0xF21E with i := 0x0FFF }.setV 2 0xFF) (fun t => (t.i, t.getV 15)) = some (0x10FE, 0x00) := by decide

/-- G1 -/
theorem test_cls :
    after ({ start 0x00E0 with fb := FrameBuffer.setPixel (FrameBuffer.setPixel State.reset.fb 0 0 true) 63 31 true }.setV 15 1)
      (fun t => (t.pixelOut 0 0, t.pixelOut 63 31, t.getV 15)) = some (false, false, 0x01) := by decide
/-- G5: the row wraps; bit 7 is the left column, bit 0 the right one. -/
theorem test_drw_wraps :
    after ({ start 0xD122 with i := 0x0300, mem := (start 0xD122).mem.writeBytes 0x300 [0x80, 0x01] }.setV 2 0x1F)
      (fun t => (t.pixelOut 0 31, t.pixelOut 7 31, t.pixelOut 7 0, t.pixelOut 0 0, t.getV 15)) =
      some (true, false, true, false, 0x00) := by decide
/-- G14: the collision, and which pixels turn. -/
theorem test_drw_collides :
    after (({ start 0xD121 with
        i := 0x0300
        mem := (start 0xD121).mem.writeBytes 0x300 [0xA5]
        fb := FrameBuffer.setPixel (FrameBuffer.setPixel State.reset.fb 8 4 true) 9 4 true }.setV 1 0x08).setV 2 0x04)
      (fun t => (t.getV 15, [8, 9, 10, 11, 13, 15].map (fun c => FrameBuffer.pixel t.fb c 4))) =
      some (0x01, [false, true, true, false, true, true]) := by decide

/-- M1 -/
theorem test_ldVxDt : after { start 0xF307 with dt := 0x2A } (fun t => (t.getV 3, t.dt)) = some (0x2A, 0x2A) := by decide
/-- M2 -/
theorem test_ldDtVx : after ((start 0xF315).setV 3 0x3C) (fun t => (t.dt, t.st)) = some (0x3C, 0x00) := by decide
/-- M3 -/
theorem test_ldStVx : after ((start 0xF318).setV 3 0x05) (fun t => (t.st, t.tone, t.dt)) = some (0x05, true, 0x00) := by decide
/-- M7, M8 -/
theorem test_tick : after { State.reset with dt := 1, st := 1, schedule := [.tick] } (fun t => (t.dt, t.st, t.tone)) = some (0, 0, false) ∧
    after { State.reset with schedule := [.tick] } (fun t => (t.dt, t.st)) = some (0, 0) := by decide

/-- K2, K5 -/
theorem test_skp : after ((start 0xE19E).setV 1 0x0A) (·.pc) = some 0x0202 ∧
    after (((start 0xE19E).setV 1 0x1A).setKeyCell 10 true) (·.pc) = some 0x0204 := by decide
/-- K3, K4 -/
theorem test_sknp : after (((start 0xE1A1).setV 1 0x0A).setKeyCell 10 true) (·.pc) = some 0x0202 ∧
    after ((start 0xE1A1).setV 1 0x0A) (·.pc) = some 0x0204 := by decide
/-- K8, K6 -/
theorem test_ldVxK : after ((((start 0xF30A).setKeyCell 4 true).setKeyCell 9 true).setKeyCell 15 true) (fun t => (t.getV 3, t.pc)) = some (0x04, 0x0202) ∧
    after (start 0xF30A) (·.pc) = some 0x0200 ∧ (start 0xF30A).stepResult = some .stalled := by decide
/-- K11 -/
theorem test_setKey : after { State.reset with schedule := [.setKey 3 true] } (fun t => (t.keys[3], t.keys[2], t.keys[4])) = some (true, false, false) := by decide

/-- X1, Z6: after `INITIALIZE` a `STEP` fetches `0x0000` and takes the fault. -/
theorem test_unknown_opcode : after State.reset (fun t => (t.fault, t.pc)) = some (some (.unknownOpcode 0x0000 0x0200), 0x0200) ∧
    after (start 0x5121) (·.fault) = some (some (.unknownOpcode 0x5121 0x0200)) := by decide
/-- X15 to X18 -/
theorem test_fetch_faults :
    [0x01FE, 0x0201, 0x0FFF, 0x1000].all (fun pc : Word =>
      after { State.reset with pc := pc } (·.fault) = some (some (.addressOutOfRange .fetch pc))) = true := by decide
/-- The outcomes of T1, X1, K6 and X22. -/
theorem test_step_outcome :
    (start 0x1234).stepResult = some .ok ∧ State.reset.stepResult = some (.fault (.unknownOpcode 0x0000 0x0200)) ∧
    (start 0xF30A).stepResult = some .stalled ∧
    { start 0x1234 with fault := some (.unknownOpcode 0 0x0200) }.stepResult = some (.fault (.unknownOpcode 0 0x0200)) := by decide
/-- X22 -/
theorem test_halted : after { start 0x1234 with fault := some (.unknownOpcode 0 0x0200) } (fun t => (t.pc, t.fault)) = some (0x0200, some (.unknownOpcode 0 0x0200)) := by decide
/-- The codes of 60_exceptions.md R89. -/
theorem test_fault_codes :
    State.reset.faultCode = 0 ∧ { State.reset with fault := some (.addressOutOfRange .fetch 0x1000) }.faultCode = 1 ∧
    { State.reset with fault := some (.unknownOpcode 0x0000 0x0200) }.faultCode = 2 ∧
    { State.reset with fault := some (.stackOverflow 0x0200) }.faultCode = 3 ∧
    { State.reset with fault := some (.stackUnderflow 0x0200) }.faultCode = 4 ∧ (LoadResult.programTooLarge 3585).code = 5 := by decide
/-- Z2, Z3 -/
theorem test_load_too_large : loadResult (List.replicate 3585 0) = .programTooLarge 3585 ∧ loadResult (List.replicate 3584 0) = .ok := by
  have long : (List.replicate 3585 (0 : Byte)).length = 3585 := List.length_replicate
  have full : (List.replicate 3584 (0 : Byte)).length = 3584 := List.length_replicate
  exact ⟨(loadResult_tooLarge (by omega)).trans (by rw [long]), loadResult_ok (by omega)⟩
/-- Z5 -/
theorem test_load :
    after { State.reset with fault := some (.stackUnderflow 0x0200), dt := 9, schedule := [.load [0x12, 0x00]] }
      (fun t => (t.fault, t.dt, t.mem.readBytes 0x200 3, t.pc)) = some (none, 0, [0x12, 0x00, 0x00], 0x0200) := by decide
/-- R110 -/
theorem test_before_first_reset : step { State.reset with ready := false } = .refused .beforeFirstReset := by rfl
/-- L1 by way of `withFetchWord` (log entry 12), from reset and from a state whose `PC` cannot be fetched from. -/
theorem test_withFetchWord : after (State.reset.withFetchWord 16 0x6A7F) (·.getV 10) = some 0x7F ∧
    after ({ State.reset with pc := 0x1000 }.withFetchWord 16 0x6A7F) (·.getV 10) = some 0x7F := by decide

/-! ## Witnesses: states and operands that meet the hypotheses of the statements, one for each clause, at boundary values -/

/-- A machine on which the event `e` is due. -/
def due (e : Event) : State := { State.reset with schedule := [e] }

/-- A machine halted by `f` on which the event `e` is due. -/
def halted (f : Fault) (e : Event) : State := { due e with fault := some f }

/-- A machine before its first reset on which the event `e` is due. -/
def unready (e : Event) : State := { due e with ready := false }

theorem witness_EncodeOfDecode : decodeWord 0x00E0 = .ok .cls ∧ decodeWord 0xFF65 = .ok (.ldVxMi 15) := by decide

theorem witness_DecoderMeetsOpcodeTable :
    (∃ r ∈ opcodeTable, r.holds 0x00E0 = true) ∧ (∃ r ∈ opcodeTable, r.holds 0xFF65 = true) ∧ decodeWord 0x812E = .ok (.shl 1 2) := by decide

theorem witness_IllegalWordsAreTheListedOnes : WellFormed.word 0xFFFF = false ∧ WellFormed.word 0x00EE = true := by decide

theorem witness_StepRunsTheDecodedInstruction :
    (start 0x1234).nextEvent = .step ∧ (start 0x1234).ready = true ∧ (start 0x1234).fault = none ∧
    0x200 ≤ (start 0x1234).pc.toNat ∧ (start 0x1234).pc.toNat ≤ 0xFFE ∧ (start 0x1234).pc.toNat % 2 = 0 ∧
    decodeBytes [(start 0x1234).mem.read 0x200, (start 0x1234).mem.read 0x201] = .ok (.jp 0x234, []) := by decide

theorem witness_BadFetchAddressFaults :
    State.reset.nextEvent = .step ∧ State.reset.ready = true ∧ State.reset.fault = none ∧
    (0x01FE : Word).toNat < 0x200 ∧ 0xFFF < (0x0FFF : Word).toNat + 1 ∧ (0x0201 : Word).toNat % 2 = 1 := by decide

theorem witness_UnknownOpcodeIsReported :
    State.reset.nextEvent = .step ∧ State.reset.ready = true ∧ State.reset.fault = none ∧
    (0x5121 : Word).toNat = ((start 0x5121).mem.read 0x200).toNat * 256 + ((start 0x5121).mem.read 0x201).toNat ∧
    (∀ r ∈ opcodeTable, r.holds 0x5121 = false) := by decide

theorem witness_HaltedMachine :
    (halted (.stackUnderflow 0x0200) .step).ready = true ∧ (halted (.stackUnderflow 0x0200) .step).nextEvent = .step ∧
    (halted (.stackUnderflow 0x0200) .tick).nextEvent = .tick ∧
    (halted (.stackUnderflow 0x0200) (.setKey 15 true)).nextEvent = .setKey 15 true ∧
    (halted (.stackUnderflow 0x0200) .tick).fault = some (.stackUnderflow 0x0200) := by decide

/-- A step of a halted machine that keeps the fault, and one that clears it. -/
theorem witness_OnlyResetClearsAFault :
    (halted (.stackUnderflow 0x0200) .step).fault = some (.stackUnderflow 0x0200) ∧
    after (halted (.stackUnderflow 0x0200) .step) (·.fault) = some (some (.stackUnderflow 0x0200)) ∧
    after (halted (.stackUnderflow 0x0200) .init) (·.fault) = some none ∧
    after (halted (.stackUnderflow 0x0200) (.load [])) (·.fault) = some none := by decide

theorem witness_FaultsArePrecise :
    State.reset.fault = none ∧ after State.reset (·.fault) = some (some (.unknownOpcode 0x0000 0x0200)) := by decide

/-- What `f` sees of the state after executing `i`. -/
def executed {α : Type} (i : Instr) (s : State) (f : State → α) : Option α :=
  match exec i s with
  | .next t => some (f t)
  | .fault _ => none
  | .refused _ => none

/-- One state for each of the seven kinds, at the edge of its condition. -/
theorem witness_FaultKindsOfInstructions :
    executed (.call 0x300) { State.reset with sp := 16 } (·.fault) = some (some (.stackOverflow 0x0200)) ∧
    executed .ret State.reset (·.fault) = some (some (.stackUnderflow 0x0200)) ∧
    executed (.drw 0 0 1) (State.reset.setI 0x1000) (·.fault) = some (some (.addressOutOfRange .read 0x1000)) ∧
    executed (.ldVxMi 1) (State.reset.setI 0x0FFF) (·.fault) = some (some (.addressOutOfRange .read 0x1000)) ∧
    executed (.ldB 0) (State.reset.setI 0x01FF) (·.fault) = some (some (.addressOutOfRange .write 0x01FF)) ∧
    executed (.ldB 0) (State.reset.setI 0x0FFE) (·.fault) = some (some (.addressOutOfRange .write 0x1000)) ∧
    executed (.ldMiVx 15) (State.reset.setI 0x0FF1) (·.fault) = some (some (.addressOutOfRange .write 0x1000)) := by decide

/-- The edges of the four clauses: the sprite of 15 rows at `0xFF2`, the blocks of 16 at `0xFF1`, the store at `0x1FF`. -/
theorem witness_DataAddressFaults :
    1 ≤ (15 : Nibble).toNat ∧ 0xFFF < (State.reset.setI 0x0FF2).i.toNat + (15 : Nibble).toNat - 1 ∧
    0xFFF < (State.reset.setI 0x0FF1).i.toNat + (15 : Reg).val ∧ (State.reset.setI 0x01FF).i.toNat < 0x200 := by decide

theorem witness_StepAlwaysAnswersANextState : State.reset.ready = true := by decide

theorem witness_RefusedBeforeFirstReset :
    (unready .step).ready = false ∧ (unready .step).nextEvent = .step ∧ (unready .tick).nextEvent = .tick ∧
    (unready (.setKey 0 true)).nextEvent = .setKey 0 true ∧ (unready .init).nextEvent = .init ∧
    (unready (.load [0x12])).nextEvent = .load [0x12] := by decide

theorem witness_CallPushesTheReturnAddress :
    (0 : Fin 16).val = State.reset.sp.val ∧ (15 : Fin 16).val = { State.reset with sp := 15 }.sp.val ∧
    { State.reset with sp := 16 }.sp = 16 := by decide

theorem witness_SeventeenthCallOverflows : State.reset.fault = none ∧ { State.reset with sp := 16 }.sp.val = 16 := by decide

theorem witness_RetPopsTheReturnAddress :
    (0 : Fin 16).val + 1 = { State.reset with sp := 1 }.sp.val ∧ (15 : Fin 16).val + 1 = { State.reset with sp := 16 }.sp.val ∧
    State.reset.sp = 0 := by decide

theorem witness_CallThenRetComesBack :
    (0 : Fin 16).val = State.reset.sp.val ∧ (15 : Fin 16).val = { State.reset with sp := 15 }.sp.val := by decide

theorem witness_SkipsOnAKey :
    (15 : Key).val = ((State.reset.setV 1 0xFF).getV 1).toNat % 16 ∧ (0 : Key).val = ((State.reset.setV 1 0x10).getV 1).toNat % 16 := by decide

/-- The lowest and highest `I` that stores, and the two that fault next to them. -/
theorem witness_BcdDigitsStored :
    State.reset.mem.wf = true ∧ 0x200 ≤ (State.reset.setI 0x0200).i.toNat ∧ (State.reset.setI 0x0FFD).i.toNat + 2 ≤ 0xFFF ∧
    (State.reset.setI 0x01FF).i.toNat < 0x200 ∧ 0xFFF < (State.reset.setI 0x0FFE).i.toNat + 2 := by decide

theorem witness_RegistersStored :
    State.reset.mem.wf = true ∧ 0x200 ≤ (State.reset.setI 0x0FF0).i.toNat ∧ (State.reset.setI 0x0FF0).i.toNat + (15 : Reg).val ≤ 0xFFF ∧
    0x200 ≤ (State.reset.setI 0x0200).i.toNat ∧ (State.reset.setI 0x0FFF).i.toNat + (0 : Reg).val ≤ 0xFFF := by decide

theorem witness_RegistersLoaded :
    State.reset.i.toNat + (15 : Reg).val ≤ 0xFFF ∧ (State.reset.setI 0x0FF0).i.toNat + (15 : Reg).val ≤ 0xFFF := by decide

/-- The bytes as a store leaves them: the block of one register `V0` over the very last byte, and the three digits of 0 from
the first byte of program space on, over memory that is zero there. -/
theorem witness_StoreIsSeenByTheNextFetch :
    State.reset.mem.wf = true ∧
    (0x200 ≤ (State.reset.setI 0x0FFF).i.toNat ∧ (State.reset.setI 0x0FFF).i.toNat + (0 : Reg).val ≤ 0xFFF ∧
      (∀ r : Reg, r ≤ 0 → State.reset.mem.read ((State.reset.setI 0x0FFF).dataAddress r.val) = (State.reset.setI 0x0FFF).getV r)) ∧
    (0x200 ≤ (State.reset.setI 0x0202).i.toNat ∧ (State.reset.setI 0x0202).i.toNat + (1 : Reg).val ≤ 0xFFF ∧ 1 ≤ (1 : Reg).val ∧
      (State.reset.setI 0x0202).i = (State.reset.setI 0x0202).pc + 2 ∧
      (∀ r : Reg, r ≤ 1 → State.reset.mem.read ((State.reset.setI 0x0202).dataAddress r.val) = (State.reset.setI 0x0202).getV r)) ∧
    (0x200 ≤ (State.reset.setI 0x0200).i.toNat ∧ (State.reset.setI 0x0200).i.toNat + 2 ≤ 0xFFF ∧ (State.reset.setI 0x0FFD).i.toNat + 2 ≤ 0xFFF ∧
      ((State.reset.getV 0).toNat / 100 = (State.reset.mem.read 0x200).toNat) ∧
      ((State.reset.getV 0).toNat / 10 % 10 = (State.reset.mem.read 0x201).toNat) ∧
      ((State.reset.getV 0).toNat % 10 = (State.reset.mem.read 0x202).toNat)) ∧
    (State.reset.setPc 0x0FFE).pc.toNat ≤ 0xFFE := by decide

/-- The statements on arithmetic have the one hypothesis that the destination is not `VF`. -/
theorem witness_AddWithCarry : (14 : Reg) ≠ 15 := by decide
theorem witness_SubtractWithNotBorrow : (0 : Reg) ≠ 15 := by decide
theorem witness_ShiftsByOne : (1 : Reg) ≠ 15 := by decide

theorem witness_RandomByteUnderMask : (0x0F : Byte).getLsbD 7 = false ∧ (0x0F : Byte).getLsbD 4 = false := by decide

/-- A one-row sprite `0x80` at the top left: pixel (0, 0) covered and set, or covered and clear; the last row a sprite of 15
may start at; the sprite of no rows at an absent address. -/
def oneDot : State := { State.reset with i := 0x0300, mem := Memory.write [] 0x300 0x80 }

theorem witness_DrawInvertsTheCoveredPixels :
    oneDot.i.toNat + (1 : Nibble).toNat - 1 ≤ 0xFFF ∧ (State.reset.setI 0x0FF1).i.toNat + (15 : Nibble).toNat - 1 ≤ 0xFFF ∧
    (0 : Nibble).toNat = 0 ∧ SpriteCovers oneDot 0 0 1 0 0 ∧ ¬ SpriteCovers oneDot 0 0 0 0 0 ∧
    { oneDot with fb := FrameBuffer.setPixel oneDot.fb 0 0 true }.fb[(0 : Fin 32)][(0 : Fin 64)] = true := by
  refine ⟨by decide, by decide, by decide, ⟨0, 0, by decide, by decide, by decide, by decide, by decide⟩, ?_, by decide⟩
  rintro ⟨k, _, hk, _⟩
  exact absurd hk (by simp)

theorem witness_DrawTwiceRestores :
    (0 : Reg) ≠ 15 ∧ (14 : Reg) ≠ 15 ∧ oneDot.i.toNat + (1 : Nibble).toNat - 1 ≤ 0xFFF ∧ SpriteCovers oneDot 0 14 1 0 0 ∧
    oneDot.fb[(0 : Fin 32)][(0 : Fin 64)] = false :=
  ⟨by decide, by decide, by decide, ⟨0, 0, by decide, by decide, by decide, by decide, by decide⟩, by decide⟩

theorem witness_DrawPositionsWrap :
    (oneDot.setV 1 0x40).fb = oneDot.fb ∧ (oneDot.setV 1 0x40).mem = oneDot.mem ∧ (oneDot.setV 1 0x40).i = oneDot.i ∧
    ((oneDot.setV 1 0x40).getV 1).toNat % 64 = (oneDot.getV 0).toNat % 64 ∧
    ((oneDot.setV 1 0x40).getV 1).toNat % 32 = (oneDot.getV 0).toNat % 32 ∧ oneDot.i.toNat + (1 : Nibble).toNat - 1 ≤ 0xFFF := by decide

theorem witness_TickCountsBothTimersDown :
    { due .tick with dt := 0xFF, st := 0 }.nextEvent = .tick ∧ { due .tick with dt := 0xFF, st := 0 }.ready = true ∧
    { due .tick with dt := 0xFF, st := 0 }.dt ≠ 0 := by decide

theorem witness_SetKeyWritesOneCell : (due (.setKey 15 true)).nextEvent = .setKey 15 true ∧ (due (.setKey 0 false)).ready = true := by decide

theorem witness_WaitForKey :
    (∀ j : Key, State.reset.keys[j] = false) ∧ (State.reset.setKeyCell 15 true).keys[(15 : Key)] = true ∧
    (∀ j : Key, j < 15 → (State.reset.setKeyCell 15 true).keys[j] = false) := by decide

/-- A `STEP` of each outcome: stalled, ok, a fault newly taken, a fault latched before, none before the first reset. -/
theorem witness_StepOutcome :
    (start 0xF30A).ready = true ∧ (start 0xF30A).stalled = true ∧ (start 0xF30A).nextEvent = .step ∧
    (start 0x1234).ready = true ∧ (start 0x1234).stalled = false ∧ after (start 0x1234) (·.fault) = some none ∧
    State.reset.ready = true ∧ after State.reset (·.fault) = some (some (.unknownOpcode 0x0000 0x0200)) ∧
    after (halted (.stackUnderflow 0x0200) .step) (·.fault) = some (some (.stackUnderflow 0x0200)) ∧
    (unready .step).ready = false := by decide

theorem witness_ResetValues :
    (0x04F : Nat) < 0x050 ∧ (0x0A0 ≤ (0x0A0 : Nat) ∧ (0x0A0 : Nat) < 0x1000) ∧ 0x0A0 ≤ (0xFFF : Nat) ∧ (0xFFF : Nat) < 0x1000 := by decide

/-- A state for each fault code, a load at and above the limit, and a step of each kind that changes `tone`. -/
theorem witness_OutputsAsTheHostReadsThem :
    State.reset.fault = none ∧ (halted (.addressOutOfRange .read 0x1000) .step).fault = some (.addressOutOfRange .read 0x1000) ∧
    (halted (.unknownOpcode 0 0x0200) .step).fault = some (.unknownOpcode 0 0x0200) ∧
    (halted (.stackOverflow 0x0200) .step).fault = some (.stackOverflow 0x0200) ∧
    (halted (.stackUnderflow 0x0200) .step).fault = some (.stackUnderflow 0x0200) ∧
    after ((start 0xF118).setV 1 7) (·.tone) = some true ∧ (start 0xF118).tone = false ∧
    after { due .tick with st := 1 } (·.tone) = some false ∧ { due .tick with st := 1 }.tone = true ∧
    after { due .init with st := 1 } (·.tone) = some false ∧ after { due (.load []) with st := 1 } (·.tone) = some false := by decide

theorem witness_InitializeGivesTheResetState : (due .init).nextEvent = .init := by decide

theorem witness_LoadInstallsTheProgram :
    (due (.load (List.replicate 3584 0xAA))).nextEvent = .load (List.replicate 3584 0xAA) ∧
    (List.replicate 3584 (0xAA : Byte)).length ≤ 3584 ∧ ([] : List Byte).length ≤ 3584 ∧
    (due (.load (List.replicate 3585 0))).nextEvent = .load (List.replicate 3585 0) ∧
    3584 < (List.replicate 3585 (0 : Byte)).length :=
  ⟨rfl, Nat.le_of_eq List.length_replicate, by decide, rfl, Nat.lt_of_lt_of_eq (by decide) List.length_replicate.symm⟩

/-- A state that meets the invariant and steps. -/
theorem witness_StepKeepsTheInvariant : State.reset.Inv ∧ ∃ t, step State.reset = .next t :=
  ⟨⟨rfl, rfl, by decide, by decide⟩, _, rfl⟩

theorem witness_ReservedRegionIsImmutable : State.reset.Inv ∧ (∃ t, step State.reset = .next t) ∧ 0x1FF < 0x200 :=
  ⟨⟨rfl, rfl, by decide, by decide⟩, ⟨_, rfl⟩, by decide⟩

theorem witness_AccessMatrix : ∃ t, exec (.ldImm 15 0xFF) State.reset = .next t := ⟨_, rfl⟩

/-- A step that changes the element, for each clause. -/
theorem witness_WritersOfEachElement :
    after (start 0x6A7F) (fun t => (t.getV 10, t.pc)) = some (0x7F, 0x0202) ∧
    after (((start 0x8124).setV 1 0xFF).setV 2 1) (·.getV 15) = some 1 ∧ (start 0x8124).getV 15 = 0 ∧
    after (start 0x3000) (·.pc) = some 0x0204 ∧ after (start 0x00EE) (·.fault) = some (some (.stackUnderflow 0x0200)) ∧
    after State.reset (·.fault) = some (some (.unknownOpcode 0x0000 0x0200)) ∧ after (start 0xC100) (·.draws) = some 1 ∧
    after { start 0x00E0 with fb := FrameBuffer.setPixel State.reset.fb 0 0 true } (fun t => t.fb[0][0]) = some false ∧
    after (start 0xA300) (·.i) = some 0x0300 ∧ after ((start 0xF115).setV 1 7) (·.dt) = some 7 ∧
    after ((start 0xF118).setV 1 7) (·.st) = some 7 ∧ after (start 0x2300) (fun t => (t.sp, t.stack[0])) = some (1, 0x0202) ∧
    after ({ start 0xF033 with i := 0x0300 }.setV 0 7) (fun t => t.mem.read 0x302) = some 7 ∧ (start 0x2300).nextEvent = .step := by decide

theorem witness_DelayTimerRisesOnlyWhenWritten :
    (∃ t, step ((start 0xF115).setV 1 7) = .next t) ∧ after ((start 0xF115).setV 1 7) (·.dt) = some 7 ∧ (start 0xF115).dt = 0 :=
  ⟨⟨_, rfl⟩, by decide, by decide⟩

theorem witness_PartsAreTheWholeState :
    State.reset.mem.wf = true ∧ oneDot.mem.wf = true ∧ ∀ p : Part, Part.Same oneDot oneDot p :=
  ⟨by decide, by decide, fun p => by cases p <;> rfl⟩

theorem witness_SelfJumpChangesNothing :
    (start 0x1200).AtSelfJump ∧ (start 0x1200).ready = true ∧ (start 0x1200).nextEvent = .step :=
  ⟨⟨rfl, 0x200, by decide, by decide⟩, by decide, by decide⟩

end Sys2Proof.Tests
end

namespace Sys2Proof.Machine

/-! ## Control flow: jumps and skips

Each of these instructions answers a state that differs in `PC` only, so one frame lemma serves all of them; what is left of a
statement is the value of `PC`. -/

/-! ### The meanings -/

theorem exec_jp (nnn : Addr) (s : State) : exec (.jp nnn) s = .next (s.setPc (zext12 nnn)) := rfl

theorem exec_seImm (x : Reg) (nn : Byte) (s : State) : exec (.seImm x nn) s = .next (s.skipIf (s.getV x == nn)) := rfl

theorem exec_sneImm (x : Reg) (nn : Byte) (s : State) : exec (.sneImm x nn) s = .next (s.skipIf (s.getV x != nn)) := rfl

theorem exec_seReg (x y : Reg) (s : State) : exec (.seReg x y) s = .next (s.skipIf (s.getV x == s.getV y)) := rfl

theorem exec_sneReg (x y : Reg) (s : State) : exec (.sneReg x y) s = .next (s.skipIf (s.getV x != s.getV y)) := rfl

/-! ### The frame of a write to `PC` -/

theorem State.setPc_onlyChanges_pc (s : State) (w : Word) : OnlyChanges s (s.setPc w) (fun p => p = .pc) := by
  intro p hp
  cases p
  case pc => exact absurd rfl hp
  all_goals rfl

theorem State.skipIf_onlyChanges_pc (s : State) (c : Bool) : OnlyChanges s (s.skipIf c) (fun p => p = .pc) := by
  rw [State.skipIf_eq]
  exact s.setPc_onlyChanges_pc _

/-! ### The value of `PC` -/

/-- An address keeps its value as a word. -/
@[simp] theorem zext12_toNat (nnn : Addr) : (zext12 nnn).toNat = nnn.toNat :=
  BitVec.toNat_setWidth_of_le (by decide)

/-- R48: sums of `PC` wrap at 65536. -/
theorem State.skipIf_pc_toNat (s : State) (c : Bool) :
    (s.skipIf c).pc.toNat = (s.pc.toNat + if c then 4 else 2) % 65536 := by
  rw [State.skipIf_eq, State.setPc_pc]
  cases c
  · exact BitVec.toNat_add s.pc 2
  · exact BitVec.toNat_add s.pc 4

theorem State.skipIf_beq_pc_toNat (s : State) (a b : Byte) :
    (s.skipIf (a == b)).pc.toNat = (s.pc.toNat + if a = b then 4 else 2) % 65536 := by
  simp only [State.skipIf_pc_toNat, beq_iff_eq]

theorem State.skipIf_bne_pc_toNat (s : State) (a b : Byte) :
    (s.skipIf (a != b)).pc.toNat = (s.pc.toNat + if a = b then 2 else 4) % 65536 := by
  simp only [State.skipIf_pc_toNat, bne_iff_ne, ne_eq, ite_not]

/-! ### The obligations -/

/-- Settles O16: the whole effect of `JP` is one write to `PC`. -/
theorem jumpSetsPc : Obligations.JumpSetsPc := by
  intro nnn s
  exact ⟨_, exec_jp nnn s, zext12_toNat nnn, s.setPc_onlyChanges_pc _⟩

/-- Settles O22: both skips are `skipIf`, on equality and on its negation. -/
theorem skipsOnAnImmediate : Obligations.SkipsOnAnImmediate := by
  intro x nn s
  constructor
  · exact ⟨_, exec_seImm x nn s, s.skipIf_beq_pc_toNat _ _, s.skipIf_onlyChanges_pc _⟩
  · exact ⟨_, exec_sneImm x nn s, s.skipIf_bne_pc_toNat _ _, s.skipIf_onlyChanges_pc _⟩

/-- Settles O23: as for an immediate, the second operand read from `V[Y]`. -/
theorem skipsOnTwoRegisters : Obligations.SkipsOnTwoRegisters := by
  intro x y s
  constructor
  · exact ⟨_, exec_seReg x y s, s.skipIf_beq_pc_toNat _ _, s.skipIf_onlyChanges_pc _⟩
  · exact ⟨_, exec_sneReg x y s, s.skipIf_bne_pc_toNat _ _, s.skipIf_onlyChanges_pc _⟩

end Sys2Proof.Machine

namespace Sys2Proof.Machine

/-! ## Load and store: register loads, `LD I`, `LD B`

Each of these instructions writes one element of state and advances `PC`, or raises a write fault. So the frames are composed:
one lemma per update, and one that adds the advance of `PC`. -/

/-! ### The meanings -/

theorem exec_ldImm (x : Reg) (nn : Byte) (s : State) : exec (.ldImm x nn) s = .next (s.setV x nn).advance := rfl

theorem exec_ldReg (x y : Reg) (s : State) : exec (.ldReg x y) s = .next (s.setV x (s.getV y)).advance := rfl

theorem exec_ldI (nnn : Addr) (s : State) : exec (.ldI nnn) s = .next (s.setI (zext12 nnn)).advance := rfl

theorem exec_ldB (x : Reg) (s : State) :
    exec (.ldB x) s =
      s.guarded (writeGuard s.i 3) (s.setMem (s.mem.writeBytes (s.dataAddress 0) (bcdDigits (s.getV x)))).advance := rfl

/-! ### Composing frames -/

theorem Part.Same.trans {s t u : State} {p : Part} (hst : Part.Same s t p) (htu : Part.Same t u p) : Part.Same s u p := by
  cases p
  all_goals exact Eq.trans htu hst

/-- An advance of `PC` adds `PC` to what has changed. -/
theorem OnlyChanges.advance {s t : State} {c : Part → Prop} (h : OnlyChanges s t c) :
    OnlyChanges s t.advance (fun p => c p ∨ p = .pc) := by
  intro p hp
  obtain ⟨hc, hpc⟩ := not_or.mp hp
  exact (h p hc).trans (t.setPc_onlyChanges_pc _ p hpc)

/-! ### The frame of each update -/

theorem State.setV_onlyChanges_v (s : State) (x : Reg) (b : Byte) : OnlyChanges s (s.setV x b) (fun p => p = .v x) := by
  intro p hp
  cases p
  case v r => exact s.getV_setV_other x r b fun hr => hp (congrArg Part.v hr)
  all_goals rfl

theorem State.setI_onlyChanges_i (s : State) (w : Word) : OnlyChanges s (s.setI w) (fun p => p = .i) := by
  intro p hp
  cases p
  case i => exact absurd rfl hp
  all_goals rfl

theorem State.setFault_onlyChanges_fault (s : State) (f : Fault) : OnlyChanges s (s.setFault f) (fun p => p = .fault) := by
  intro p hp
  cases p
  case fault => exact absurd rfl hp
  all_goals rfl

/-- A store through `I` changes no byte but those it writes. -/
theorem State.storeBytes_onlyChanges_stored (s : State) (bs : List Byte) :
    OnlyChanges s (s.setMem (s.mem.writeBytes (s.dataAddress 0) bs))
      (fun p => ∃ a, p = .byte a ∧ StoredByte s bs.length a) := by
  intro p hp
  cases p
  case byte a =>
    have hout : ¬ StoredByte s bs.length a := fun ha => hp ⟨a, rfl, ha⟩
    simp only [StoredByte] at hout
    exact Memory.read_writeBytes_outside _ _ _ _ (by omega)
  all_goals rfl

/-! ### The values written -/

/-- R48: sums of `PC` wrap at 65536. -/
theorem State.advance_pc_toNat (s : State) : s.advance.pc.toNat = (s.pc.toNat + 2) % 65536 :=
  BitVec.toNat_add s.pc 2

/-- R65: byte `k` of a store through `I` is found at `I + k`. -/
theorem State.read_storeBytes {s : State} (hwf : s.mem.wf = true) (bs : List Byte) (hfit : s.i.toNat + bs.length ≤ 0x1000)
    (k : Nat) (hk : k < bs.length) : (s.mem.writeBytes (s.dataAddress 0) bs).read (s.dataAddress k) = bs[k] :=
  Memory.read_writeBytes_inside hwf bs hfit k hk

@[simp] theorem bcdDigits_length (b : Byte) : (bcdDigits b).length = 3 := rfl

theorem bcdDigits_hundreds (b : Byte) : ((bcdDigits b)[0]'(by simp)).toNat = b.toNat / 100 :=
  Nat.mod_eq_of_lt (Nat.lt_of_le_of_lt (Nat.div_le_self _ _) b.isLt)

theorem bcdDigits_tens (b : Byte) : ((bcdDigits b)[1]'(by simp)).toNat = b.toNat / 10 % 10 :=
  Nat.mod_eq_of_lt (Nat.lt_trans (Nat.mod_lt _ (by decide)) (by decide))

theorem bcdDigits_ones (b : Byte) : ((bcdDigits b)[2]'(by simp)).toNat = b.toNat % 10 :=
  Nat.mod_eq_of_lt (Nat.lt_trans (Nat.mod_lt _ (by decide)) (by decide))

/-! ### The faults of the write guard (R30), in the order of its checks -/

theorem writeGuard_reserved {a : Word} (n : Nat) (h : a.toNat < 0x200) :
    writeGuard a n = some (.addressOutOfRange .write a) :=
  if_pos h

theorem writeGuard_absent {a : Word} {n : Nat} (hlow : 0x200 ≤ a.toNat) (h : 0xFFF < a.toNat + n - 1) :
    writeGuard a n = some (.addressOutOfRange .write (firstAbsent a)) := by
  rw [writeGuard, if_neg (Nat.not_lt.mpr hlow), if_pos h]

/-! ### `LD B`, by the answer of its write guard -/

theorem exec_ldB_of_writeGuard_none {s : State} (x : Reg) (h : writeGuard s.i 3 = none) :
    exec (.ldB x) s = .next (s.setMem (s.mem.writeBytes (s.dataAddress 0) (bcdDigits (s.getV x)))).advance := by
  rw [exec_ldB, h, State.guarded_none]

theorem exec_ldB_of_writeGuard_some {s : State} {f : Fault} (x : Reg) (h : writeGuard s.i 3 = some f) :
    exec (.ldB x) s = .next (s.setFault f) := by
  rw [exec_ldB, h, State.guarded_some]

/-! ### The obligations -/

/-- Settles O25: both loads are one `setV` and an advance of `PC`. -/
theorem registerLoads : Obligations.RegisterLoads := by
  intro x y nn s
  constructor
  · exact ⟨_, exec_ldImm x nn s, s.getV_setV_same x _, State.advance_pc_toNat _, (s.setV_onlyChanges_v x _).advance⟩
  · exact ⟨_, exec_ldReg x y s, s.getV_setV_same x _, State.advance_pc_toNat _, (s.setV_onlyChanges_v x _).advance⟩

/-- Settles O26: the zero extension keeps the value of `NNN`. -/
theorem loadIndexRegister : Obligations.LoadIndexRegister := by
  intro nnn s
  exact ⟨_, exec_ldI nnn s, zext12_toNat nnn, State.advance_pc_toNat _, (s.setI_onlyChanges_i _).advance⟩

/-- Settles O28: the three clauses are the guard that passes, its fault below program space and its fault above memory. -/
theorem bcdDigitsStored : Obligations.BcdDigitsStored := by
  intro x s hwf
  refine ⟨fun hlow hhigh => ?_, fun hlow => ?_, fun hhigh => ?_⟩
  · have hguard : writeGuard s.i 3 = none := (writeGuard_eq_none_iff _ _).mpr ⟨hlow, by omega⟩
    have hread := State.read_storeBytes hwf (bcdDigits (s.getV x)) (by rw [bcdDigits_length]; omega)
    refine ⟨_, exec_ldB_of_writeGuard_none x hguard, ?hundreds, ?tens, ?ones, State.advance_pc_toNat _, ?frame⟩
    case hundreds => exact (congrArg BitVec.toNat (hread 0 _)).trans (bcdDigits_hundreds _)
    case tens => exact (congrArg BitVec.toNat (hread 1 _)).trans (bcdDigits_tens _)
    case ones => exact (congrArg BitVec.toNat (hread 2 _)).trans (bcdDigits_ones _)
    case frame => exact fun p hp => (s.storeBytes_onlyChanges_stored _).advance p (mt Or.symm hp)
  · exact ⟨_, exec_ldB_of_writeGuard_some x (writeGuard_reserved 3 hlow), rfl, s.setFault_onlyChanges_fault _⟩
  · have hguard := writeGuard_absent (a := s.i) (n := 3) (by omega) (by omega)
    exact ⟨_, _, exec_ldB_of_writeGuard_some x hguard, rfl, firstAbsent_toNat _, s.setFault_onlyChanges_fault _⟩

end Sys2Proof.Machine

namespace Sys2Proof.Machine

/-! ## Arithmetic and logic: `ADD Vx, nn`

One `setV` and an advance of `PC`, as for the register loads; what is left of the statement is the value of the sum. -/

theorem exec_addImm (x : Reg) (nn : Byte) (s : State) :
    exec (.addImm x nn) s = .next (s.setV x (s.getV x + nn)).advance := rfl

/-- Settles O32: byte addition is addition modulo 256, and the write to `V[X]` is the only one besides that to `PC`. -/
theorem addImmediate : Obligations.AddImmediate := by
  intro x nn s
  have hsum : ((s.setV x (s.getV x + nn)).getV x).toNat = ((s.getV x).toNat + nn.toNat) % 256 := by
    rw [State.getV_setV_same, BitVec.toNat_add]
  exact ⟨_, exec_addImm x nn s, hsum, State.advance_pc_toNat _, (s.setV_onlyChanges_v x _).advance⟩

end Sys2Proof.Machine

namespace Sys2Proof.Machine

/-! ## Display: `CLS`

One `setFb` and an advance of `PC`; the frame of a write to the framebuffer allows every pixel. -/

theorem exec_cls (s : State) : exec .cls s = .next (s.setFb FrameBuffer.clear).advance := rfl

theorem FrameBuffer.getElem_clear (y : Fin 32) (x : Fin 64) : FrameBuffer.clear[y][x] = false := by
  rw [← FrameBuffer.pixel_fin, FrameBuffer.pixel_clear]

theorem State.setFb_onlyChanges_pixels (s : State) (f : FrameBuffer) :
    OnlyChanges s (s.setFb f) (fun p => ∃ y x, p = .pixel y x) := by
  intro p hp
  cases p
  case pixel y x => exact absurd ⟨y, x, rfl⟩ hp
  all_goals rfl

/-- Settles O39: the framebuffer written is the blank one, and `V[15]` lies in the frame. -/
theorem clearScreen : Obligations.ClearScreen := by
  intro s
  exact ⟨_, exec_cls s, FrameBuffer.getElem_clear, State.advance_pc_toNat _,
    fun p hp => (s.setFb_onlyChanges_pixels _).advance p (mt Or.symm hp)⟩

end Sys2Proof.Machine

namespace Sys2Proof.Machine

/-! ## Timers: `LD Vx, DT`, `LD DT, Vx` and `LD ST, Vx`

Each is one update, of `V[X]`, `DT` or `ST`, and an advance of `PC`. -/

/-! ### The meanings -/

theorem exec_ldVxDt (x : Reg) (s : State) : exec (.ldVxDt x) s = .next (s.setV x s.dt).advance := rfl

theorem exec_ldDtVx (x : Reg) (s : State) : exec (.ldDtVx x) s = .next (s.setDt (s.getV x)).advance := rfl

theorem exec_ldStVx (x : Reg) (s : State) : exec (.ldStVx x) s = .next (s.setSt (s.getV x)).advance := rfl

/-! ### The frames of the timer updates -/

theorem State.setDt_onlyChanges_dt (s : State) (b : Byte) : OnlyChanges s (s.setDt b) (fun p => p = .dt) := by
  intro p hp
  cases p
  case dt => exact absurd rfl hp
  all_goals rfl

theorem State.setSt_onlyChanges_st (s : State) (b : Byte) : OnlyChanges s (s.setSt b) (fun p => p = .st) := by
  intro p hp
  cases p
  case st => exact absurd rfl hp
  all_goals rfl

/-! ### The obligation -/

/-- Settles O44: each instruction is one copy and an advance of `PC`, and `tone` follows the `ST` written. -/
theorem timerInstructions : Obligations.TimerInstructions := by
  intro x s
  refine ⟨?readDt, ?writeDt, ?writeSt⟩
  case readDt =>
    exact ⟨_, exec_ldVxDt x s, s.getV_setV_same x _, State.advance_pc_toNat _, (s.setV_onlyChanges_v x _).advance⟩
  case writeDt =>
    exact ⟨_, exec_ldDtVx x s, s.setDt_dt _, State.advance_pc_toNat _, (s.setDt_onlyChanges_dt _).advance⟩
  case writeSt =>
    exact ⟨_, exec_ldStVx x s, s.setSt_st _, State.tone_iff _, State.advance_pc_toNat _, (s.setSt_onlyChanges_st _).advance⟩

end Sys2Proof.Machine

namespace Sys2Proof

/-! ## A word that decodes is the encoding of its instruction

What the decoder compares and what it keeps make up the whole word: one lemma per format of R40, then one leaf per row of R43. -/

theorem packNNN_of_fieldT {op : Word} {t : Nibble} (ht : (fieldT op).toNat = t.toNat) : packNNN t (fieldNNN op) = op := by
  rw [← BitVec.eq_of_toNat_eq ht, packNNN_fields]

theorem packXNN_of_fieldT {op : Word} {t : Nibble} (ht : (fieldT op).toNat = t.toNat) :
    packXNN t (fieldX op) (fieldNN op) = op := by
  rw [← BitVec.eq_of_toNat_eq ht, packXNN_fields]

theorem packXNN_of_fieldT_fieldNN {op : Word} {t : Nibble} {nn : Byte} (ht : (fieldT op).toNat = t.toNat)
    (hnn : fieldNN op = nn) : packXNN t (fieldX op) nn = op := by
  rw [← hnn, packXNN_of_fieldT ht]

theorem packXYN_of_fieldT {op : Word} {t : Nibble} (ht : (fieldT op).toNat = t.toNat) :
    packXYN t (fieldX op) (fieldY op) (fieldN op) = op := by
  rw [← BitVec.eq_of_toNat_eq ht, packXYN_fields]

theorem packXYN_of_fieldT_fieldN {op : Word} {t n : Nibble} (ht : (fieldT op).toNat = t.toNat)
    (hn : (fieldN op).toNat = n.toNat) : packXYN t (fieldX op) (fieldY op) n = op := by
  rw [← BitVec.eq_of_toNat_eq hn, packXYN_of_fieldT ht]

/-- The cases are the top nibbles in order; within one, the rows in the decoder's order. -/
theorem encode_of_decodeWord_ok {op : Word} {i : Instr} (h : decodeWord op = .ok i) : encode i = op := by
  unfold decodeWord at h
  split at h
  next =>
    repeat' split at h
    case isFalse => cases h
    all_goals next hop => cases h; exact hop.symm
  next ht => cases h; exact packNNN_of_fieldT ht
  next ht => cases h; exact packNNN_of_fieldT ht
  next ht => cases h; exact packXNN_of_fieldT ht
  next ht => cases h; exact packXNN_of_fieldT ht
  next ht =>
    split at h
    next hn => cases h; exact packXYN_of_fieldT_fieldN ht (congrArg _ hn)
    next => cases h
  next ht => cases h; exact packXNN_of_fieldT ht
  next ht => cases h; exact packXNN_of_fieldT ht
  next ht =>
    split at h
    iterate 9 next hn => cases h; exact packXYN_of_fieldT_fieldN ht hn
    next => cases h
  next ht =>
    split at h
    next hn => cases h; exact packXYN_of_fieldT_fieldN ht (congrArg _ hn)
    next => cases h
  next ht => cases h; exact packNNN_of_fieldT ht
  next ht => cases h; exact packNNN_of_fieldT ht
  next ht => cases h; exact packXNN_of_fieldT ht
  next ht => cases h; exact packXYN_of_fieldT ht
  next ht =>
    repeat' split at h
    case isFalse => cases h
    all_goals next hnn => cases h; exact packXNN_of_fieldT_fieldNN ht hnn
  next ht =>
    repeat' split at h
    case isFalse => cases h
    all_goals next hnn => cases h; exact packXNN_of_fieldT_fieldNN ht hnn
  next => cases h

/-! ## Words in no row of the opcode table -/

open Laws.TableRow in
/-- The laws of Laws/PerInstr.lean, one per instruction, as one. -/
theorem encode_matches_row (i : Instr) : Statement i :=
  match i with
  | .cls => cls
  | .ret => ret
  | .jp nnn => jp nnn
  | .call nnn => call nnn
  | .seImm x nn => seImm x nn
  | .sneImm x nn => sneImm x nn
  | .seReg x y => seReg x y
  | .ldImm x nn => ldImm x nn
  | .addImm x nn => addImm x nn
  | .ldReg x y => ldReg x y
  | .orReg x y => orReg x y
  | .andReg x y => andReg x y
  | .xorReg x y => xorReg x y
  | .addReg x y => addReg x y
  | .subReg x y => subReg x y
  | .shr x y => shr x y
  | .subnReg x y => subnReg x y
  | .shl x y => shl x y
  | .sneReg x y => sneReg x y
  | .ldI nnn => ldI nnn
  | .jpV0 nnn => jpV0 nnn
  | .rnd x nn => rnd x nn
  | .drw x y n => drw x y n
  | .skp x => skp x
  | .sknp x => sknp x
  | .ldVxDt x => ldVxDt x
  | .ldVxK x => ldVxK x
  | .ldDtVx x => ldDtVx x
  | .ldStVx x => ldStVx x
  | .addI x => addI x
  | .ldF x => ldF x
  | .ldB x => ldB x
  | .ldMiVx x => ldMiVx x
  | .ldVxMi x => ldVxMi x

/-- R44: were such a word to decode, it would be an encoding, and so lie in a row. -/
theorem exists_decodeWord_eq_error {op : Word} (h : ∀ row ∈ opcodeTable, row.holds op = false) :
    ∃ r, decodeWord op = .error r := by
  cases hd : decodeWord op with
  | error r => exact ⟨r, rfl⟩
  | ok i =>
    obtain ⟨row, hrow, -, hholds⟩ := encode_matches_row i
    rw [encode_of_decodeWord_ok hd, h row hrow] at hholds
    cases hholds

end Sys2Proof

namespace Sys2Proof.Machine

/-! ## Exceptions: unknown opcodes, stack overflow, and the `TICK` event -/

/-! ### Performing an event -/

theorem step_of_step {s : State} (he : s.nextEvent = .step) (hr : s.ready = true) : step s = stepEvent s.popEvent := by
  simp only [step, he, onceReset_ready hr]

theorem step_of_tick {s : State} (he : s.nextEvent = .tick) (hr : s.ready = true) : step s = .next s.popEvent.tick := by
  simp only [step, he, onceReset_ready hr]

/-- R95: a fault of the fetch is taken. -/
theorem stepEvent_of_fetch_error {s : State} {f : Fault} (hs : s.fault = none) (hf : s.fetch = .error f) :
    stepEvent s = .next (s.setFault f) := by
  simp only [stepEvent, hs, hf, State.raise_eq]

/-! ### Unknown opcodes -/

theorem State.fetch_of_decodeWord_error {s : State} {r : Reject} (hg : fetchGuard s.pc = none)
    (hd : decodeWord s.fetchWord = .error r) : s.fetch = .error (.unknownOpcode s.fetchWord s.pc) := by
  simp only [State.fetch, hg, hd]

/-- Settles O8: such a word is no encoding, so the decoder rejects it and the fetch's fault is taken. -/
theorem unknownOpcodeIsReported : Obligations.UnknownOpcodeIsReported := by
  intro s he hr hs hlow hhigh heven op hop hnorow
  have hguard : fetchGuard s.pc = none := (fetchGuard_eq_none_iff _).mpr ⟨hlow, hhigh, heven⟩
  have hword : s.fetchWord = op := BitVec.eq_of_toNat_eq ((joinBytes_toNat _ _).trans hop.symm)
  obtain ⟨r, hd⟩ := exists_decodeWord_eq_error hnorow
  have hfetch : s.fetch = .error (.unknownOpcode op s.pc) := by
    rw [State.fetch_of_decodeWord_error hguard (hword ▸ hd), hword]
  have hstep : step s = .next (s.popEvent.setFault (.unknownOpcode op s.pc)) :=
    (step_of_step he hr).trans (stepEvent_of_fetch_error hs hfetch)
  exact ⟨_, hstep, rfl, State.setFault_onlyChanges_fault _ _⟩

/-! ### `CALL`, by the room on the stack -/

theorem exec_call_of_full {s : State} (nnn : Addr) (h : s.sp.val = 16) :
    exec (.call nnn) s = .next (s.setFault (.stackOverflow s.pc)) := by
  simp only [exec, execCall, (s.push_eq_none_iff _).mpr h, State.raise_eq]

theorem exec_call_of_room {s : State} (nnn : Addr) (h : s.sp.val < 16) :
    exec (.call nnn) s =
      .next ({ s with stack := s.stack.set s.sp.val (s.pc + 2), sp := ⟨s.sp.val + 1, by omega⟩ }.setPc (zext12 nnn)) := by
  simp only [exec, execCall, State.push_of_room _ h]

/-- Settles O19: the push fails only on a full stack, and one that succeeds leaves `FAULT` alone. -/
theorem seventeenthCallOverflows : Obligations.SeventeenthCallOverflows := by
  intro nnn s hs
  by_cases hsp : s.sp.val = 16
  · rw [if_pos hsp]
    exact ⟨_, exec_call_of_full nnn hsp, rfl⟩
  · rw [if_neg hsp]
    exact ⟨_, exec_call_of_room nnn (by omega), hs⟩

/-! ### The `TICK` event -/

/-- R101: one less, and 0 stays 0. -/
theorem countDown_toNat (b : Byte) : (countDown b).toNat = if b = 0 then 0 else b.toNat - 1 := by
  rw [countDown]
  split
  next => rfl
  next => bv_omega

theorem countDown_ne_zero_iff (b : Byte) : countDown b ≠ 0 ↔ 1 < b.toNat := by
  rw [ne_eq, ← BitVec.toNat_inj, countDown_toNat]
  split
  next hb => subst hb; decide
  next => exact Nat.sub_eq_zero_iff_le.not.trans Nat.not_le

theorem State.tick_onlyChanges_timers (s : State) : OnlyChanges s s.tick (fun p => p = .dt ∨ p = .st) := by
  intro p hp
  obtain ⟨hdt, hst⟩ := not_or.mp hp
  exact (s.setDt_onlyChanges_dt _ p hdt).trans (State.setSt_onlyChanges_st _ _ p hst)

/-- Settles O45: a `TICK` counts both timers down, and `tone` follows the `ST` it leaves. -/
theorem tickCountsBothTimersDown : Obligations.TickCountsBothTimersDown := by
  intro s he hr
  have htone : s.popEvent.tick.tone = true ↔ 1 < s.st.toNat := (State.tone_iff _).trans (countDown_ne_zero_iff _)
  refine ⟨_, step_of_tick he hr, ?dt, ?st, htone, State.tick_onlyChanges_timers _⟩
  case dt => exact countDown_toNat s.dt
  case st => exact countDown_toNat s.st

end Sys2Proof.Machine

namespace Sys2Proof

/-! ## The encoder, the decoder, the opcode table and the list of illegal words agree

The encoder is the inverse of the decoder; the words of the table's rows are those that R44's checks let pass, and those the
decoder accepts. -/

/-- Per instruction, the fixed bits of its word select its row in the decoder, and the fields give back what was packed. -/
theorem decodeWord_encode (i : Instr) : decodeWord (encode i) = .ok i := by
  cases i
  case cls | ret => decide
  all_goals simp [encode, decodeWord]

/-- Settles O1: the words are written out, so the decoder is run on each. -/
theorem specWordsDecode : Obligations.SpecWordsDecode := by
  unfold Obligations.SpecWordsDecode
  decide

/-- Settles O2: the decoder undoes the encoder, and two bytes decode as the word they make. -/
theorem decodeOfEncode : Obligations.DecodeOfEncode := by
  intro i
  refine ⟨decodeWord_encode i, fun rest => ?_⟩
  rw [encodeBytes, List.cons_append, List.cons_append, decodeBytes_cons_cons, joinBytes_highByte_lowByte,
    decodeWord_encode]
  rfl

/-- Settles O3: what the decoder compares and what it keeps make up the whole word. -/
theorem encodeOfDecode : Obligations.EncodeOfDecode :=
  fun _ _ => encode_of_decodeWord_ok

/-! ### Rows of the opcode table -/

theorem OpcodeRow.holds_iff (row : OpcodeRow) (w : Word) : row.holds w = true ↔ w &&& row.mask = row.bits := by
  rw [OpcodeRow.holds, beq_iff_eq]

/-- A row fixes every bit under its mask. -/
theorem OpcodeRow.and_eq_of_holds {row : OpcodeRow} {w m : Word} (h : row.holds w = true) (hm : row.mask &&& m = m) :
    w &&& m = row.bits &&& m := by
  rw [← (row.holds_iff w).mp h, BitVec.and_assoc, hm]

/-- Where both masks look, two rows that hold of one word ask for the same bits. -/
theorem OpcodeRow.bits_agree {r q : OpcodeRow} {w : Word} (hr : r.holds w = true) (hq : q.holds w = true) :
    r.bits &&& q.mask = q.bits &&& r.mask := by
  rw [← (r.holds_iff w).mp hr, ← (q.holds_iff w).mp hq, BitVec.and_assoc, BitVec.and_assoc, BitVec.and_comm r.mask]

/-- No two rows of the table ask for the same bits there. -/
theorem opcodeTable_disjoint : ∀ r ∈ opcodeTable, ∀ q ∈ opcodeTable, r.bits &&& q.mask = q.bits &&& r.mask → r = q := by
  decide

theorem eq_of_holds {r q : OpcodeRow} {w : Word} (hr : r ∈ opcodeTable) (hq : q ∈ opcodeTable) (hrw : r.holds w = true)
    (hqw : q.holds w = true) : r = q :=
  opcodeTable_disjoint r hr q hq (OpcodeRow.bits_agree hrw hqw)

/-- Every row of the table fixes the top nibble. -/
theorem opcodeTable_mask_T : ∀ row ∈ opcodeTable, row.mask &&& 0xF000 = 0xF000 := by
  decide

/-- A word that decodes lies in the row of its instruction. -/
theorem exists_row_of_decodeWord_ok {w : Word} {i : Instr} (h : decodeWord w = .ok i) :
    ∃ row ∈ opcodeTable, row.holds w = true ∧ row.mnemonic = i.mnemonic := by
  obtain ⟨row, hrow, hname, hholds⟩ := encode_matches_row i
  exact ⟨row, hrow, encode_of_decodeWord_ok h ▸ hholds, hname⟩

/-- The decoder's only complaint about a word is that it is unknown. -/
theorem decodeWord_error_eq {w : Word} {r : Reject} (h : decodeWord w = .error r) : r = .unknownOpcode w := by
  unfold decodeWord at h
  repeat' split at h
  all_goals cases h
  all_goals rfl

end Sys2Proof

namespace Sys2Proof.WellFormed

/-! ### The words of the table are legal -/

/-- R44's checks have one form: in the family `t`, a condition on the bits under a mask `m`. Where the rows of the family fix
those bits and meet the condition, the words of the table pass the check. -/
theorem check_of_holds {row : OpcodeRow} {w t m : Word} {P : Word → Bool} (hrow : row ∈ opcodeTable)
    (h : row.holds w = true)
    (htable : ∀ r ∈ opcodeTable, inFamily t r.bits = true → r.mask &&& m = m ∧ P (r.bits &&& m) = true) :
    (!inFamily t w || P (w &&& m)) = true := by
  have hfam : inFamily t w = inFamily t row.bits := by
    rw [inFamily, inFamily, OpcodeRow.and_eq_of_holds h (opcodeTable_mask_T row hrow)]
  cases ht : inFamily t row.bits with
  | false => rw [hfam, ht]; rfl
  | true =>
    obtain ⟨hm, hP⟩ := htable row hrow ht
    rw [OpcodeRow.and_eq_of_holds h hm, hP, Bool.or_true]

theorem word_of_holds {row : OpcodeRow} {w : Word} (hrow : row ∈ opcodeTable) (h : row.holds w = true) : word w = true := by
  have h0 : check0 w = true := by
    have hfull : w &&& 0xFFFF = w := BitVec.and_allOnes
    have hc := check_of_holds (t := 0x0000) (m := 0xFFFF) (P := fun v => v == 0x00E0 || v == 0x00EE) hrow h (by decide)
    rwa [hfull, ← Bool.or_assoc] at hc
  have h5 : check5 w = true := check_of_holds (m := 0x000F) (P := (· == 0)) hrow h (by decide)
  have h8 : check8 w = true :=
    check_of_holds (P := fun v => !([0x8, 0x9, 0xA, 0xB, 0xC, 0xD, 0xF] : List Word).contains v) hrow h (by decide)
  have h9 : check9 w = true := check_of_holds (m := 0x000F) (P := (· == 0)) hrow h (by decide)
  have hE : checkE w = true := check_of_holds (P := ([0x9E, 0xA1] : List Word).contains) hrow h (by decide)
  have hF : checkF w = true :=
    check_of_holds (P := ([0x07, 0x0A, 0x15, 0x18, 0x1E, 0x29, 0x33, 0x55, 0x65] : List Word).contains) hrow h (by decide)
  rw [word, h0, h5, h8, h9, hE, hF]
  rfl

/-! ### The conditions of R44, on the fields that the decoder looks at -/

/-- A legal word of a family meets the family's condition. -/
theorem condition_of_check {w : Word} {t : Nibble} {c : Bool} (hT : (fieldT w).toNat = t.toNat)
    (h : (!inFamily (packNNN t 0) w || c) = true) : c = true := by
  have hfam : inFamily (packNNN t 0) w = true := by
    rw [inFamily, and_mask_F000, BitVec.eq_of_toNat_eq hT, beq_self_eq_true]
  rwa [hfam] at h

theorem and_mask_000F (w : Word) : w &&& 0x000F = (fieldN w).setWidth 16 := by
  apply BitVec.eq_of_toNat_eq
  rw [and_mask_000F_toNat, BitVec.toNat_setWidth_of_le (by decide), fieldN_toNat]

theorem and_mask_00FF (w : Word) : w &&& 0x00FF = (fieldNN w).setWidth 16 := by
  apply BitVec.eq_of_toNat_eq
  rw [and_mask_00FF_toNat, BitVec.toNat_setWidth_of_le (by decide), fieldNN_toNat]

theorem fixedWord_of_check0 {w : Word} (hT : (fieldT w).toNat = 0x0) (h : check0 w = true) : w = 0x00E0 ∨ w = 0x00EE := by
  rw [check0, Bool.or_assoc] at h
  simpa using condition_of_check (t := 0x0) hT h

theorem fieldN_eq_zero_of_mask {w : Word} (h : (w &&& 0x000F == 0) = true) : fieldN w = 0 := by
  have hnibble : ∀ n : Nibble, ((n.setWidth 16 : Word) == 0) = true → n = 0 := by decide
  exact hnibble _ (and_mask_000F w ▸ h)

theorem fieldN_of_check8 {w : Word} (hT : (fieldT w).toNat = 0x8) (h : check8 w = true) :
    (fieldN w).toNat ≤ 0x7 ∨ (fieldN w).toNat = 0xE := by
  have hnibble : ∀ n : Nibble, (!([0x8, 0x9, 0xA, 0xB, 0xC, 0xD, 0xF] : List Word).contains (n.setWidth 16)) = true →
    n.toNat ≤ 0x7 ∨ n.toNat = 0xE := by decide
  exact hnibble _ (and_mask_000F w ▸ condition_of_check (t := 0x8) hT h)

theorem fieldNN_of_checkE {w : Word} (hT : (fieldT w).toNat = 0xE) (h : checkE w = true) :
    fieldNN w = 0x9E ∨ fieldNN w = 0xA1 := by
  have hbyte : ∀ nn : Byte, ([0x9E, 0xA1] : List Word).contains (nn.setWidth 16) = true → nn = 0x9E ∨ nn = 0xA1 := by decide
  exact hbyte _ (and_mask_00FF w ▸ condition_of_check (t := 0xE) hT h)

theorem fieldNN_of_checkF {w : Word} (hT : (fieldT w).toNat = 0xF) (h : checkF w = true) :
    fieldNN w = 0x07 ∨ fieldNN w = 0x0A ∨ fieldNN w = 0x15 ∨ fieldNN w = 0x18 ∨ fieldNN w = 0x1E ∨ fieldNN w = 0x29 ∨
      fieldNN w = 0x33 ∨ fieldNN w = 0x55 ∨ fieldNN w = 0x65 := by
  have hbyte : ∀ nn : Byte,
    ([0x07, 0x0A, 0x15, 0x18, 0x1E, 0x29, 0x33, 0x55, 0x65] : List Word).contains (nn.setWidth 16) = true →
      nn = 0x07 ∨ nn = 0x0A ∨ nn = 0x15 ∨ nn = 0x18 ∨ nn = 0x1E ∨ nn = 0x29 ∨ nn = 0x33 ∨ nn = 0x55 ∨ nn = 0x65 := by
    decide
  exact hbyte _ (and_mask_00FF w ▸ condition_of_check (t := 0xF) hT h)

theorem checks_of_word {w : Word} (h : word w = true) :
    check0 w = true ∧ check5 w = true ∧ check8 w = true ∧ check9 w = true ∧ checkE w = true ∧ checkF w = true := by
  simpa only [word, Bool.and_eq_true, and_assoc] using h

/-- The named cases are the top nibbles that have illegal words, in the decoder's order, and its unreachable default. -/
theorem decodeWord_ok_of_word {w : Word} (h : word w = true) : ∃ i, decodeWord w = .ok i := by
  obtain ⟨h0, h5, h8, h9, hE, hF⟩ := checks_of_word h
  unfold decodeWord
  split
  case h_1 hT => rcases fixedWord_of_check0 hT h0 with hw | hw <;> simp [hw]
  case h_6 hT => simp [fieldN_eq_zero_of_mask (condition_of_check (t := 0x5) hT h5)]
  case h_9 hT =>
    have hN := fieldN_of_check8 hT h8
    split
    case h_10 => grind
    all_goals exact ⟨_, rfl⟩
  case h_10 hT => simp [fieldN_eq_zero_of_mask (condition_of_check (t := 0x9) hT h9)]
  case h_15 hT => rcases fieldNN_of_checkE hT hE with hNN | hNN <;> simp [hNN]
  case h_16 hT =>
    rcases fieldNN_of_checkF hT hF with hNN | hNN | hNN | hNN | hNN | hNN | hNN | hNN | hNN <;> simp [hNN]
  case h_17 =>
    have hlt := (fieldT w).isLt
    grind
  all_goals exact ⟨_, rfl⟩

end Sys2Proof.WellFormed

namespace Sys2Proof

/-! ### The obligations on words -/

/-- Settles O4: a word of a row is legal and so decodes; the row of the instruction is then the only one that holds. -/
theorem decoderMeetsOpcodeTable : Obligations.DecoderMeetsOpcodeTable := by
  refine ⟨rfl, fun r hr q hq w => eq_of_holds hr hq, fun r hr w hrw => ?_, fun w i => exists_row_of_decodeWord_ok⟩
  obtain ⟨i, hd⟩ := WellFormed.decodeWord_ok_of_word (WellFormed.word_of_holds hr hrw)
  obtain ⟨q, hq, hqw, hname⟩ := exists_row_of_decodeWord_ok hd
  exact ⟨i, hd, eq_of_holds hq hr hqw hrw ▸ hname.symm⟩

/-- Settles O5: a word that decodes lies in a row, and the words of the rows are legal. -/
theorem illegalWordsAreTheListedOnes : Obligations.IllegalWordsAreTheListedOnes := by
  intro w
  refine ⟨fun hw => ?_, WellFormed.decodeWord_ok_of_word⟩
  cases hd : decodeWord w with
  | error r => rw [decodeWord_error_eq hd]
  | ok i =>
    obtain ⟨row, hrow, hholds, -⟩ := exists_row_of_decodeWord_ok hd
    rw [WellFormed.word_of_holds hrow hholds] at hw
    cases hw

end Sys2Proof

namespace Sys2Proof.Machine

/-! ## The remaining meanings, and the frames of what they do

One equation per instruction that the sections above have not needed, then one frame per update of the state. -/

/-! ### The meanings -/

theorem exec_jpV0 (nnn : Addr) (s : State) : exec (.jpV0 nnn) s = .next (s.setPc (zext12 nnn + zext8 (s.getV 0))) := rfl

theorem exec_orReg (x y : Reg) (s : State) : exec (.orReg x y) s = .next (s.setV x (s.getV x ||| s.getV y)).advance := rfl

theorem exec_andReg (x y : Reg) (s : State) : exec (.andReg x y) s = .next (s.setV x (s.getV x &&& s.getV y)).advance := rfl

theorem exec_xorReg (x y : Reg) (s : State) : exec (.xorReg x y) s = .next (s.setV x (s.getV x ^^^ s.getV y)).advance := rfl

theorem exec_addReg (x y : Reg) (s : State) :
    exec (.addReg x y) s =
      .next (s.setResultAndFlag x (s.getV x + s.getV y) (carryFlag (s.getV x) (s.getV y))).advance := rfl

theorem exec_subReg (x y : Reg) (s : State) :
    exec (.subReg x y) s =
      .next (s.setResultAndFlag x (s.getV x - s.getV y) (notBorrowFlag (s.getV x) (s.getV y))).advance := rfl

theorem exec_subnReg (x y : Reg) (s : State) :
    exec (.subnReg x y) s =
      .next (s.setResultAndFlag x (s.getV y - s.getV x) (notBorrowFlag (s.getV y) (s.getV x))).advance := rfl

theorem exec_shr (x y : Reg) (s : State) :
    exec (.shr x y) s = .next (s.setResultAndFlag x (s.getV x >>> 1) (shiftedOutRight (s.getV x))).advance := rfl

theorem exec_shl (x y : Reg) (s : State) :
    exec (.shl x y) s = .next (s.setResultAndFlag x (s.getV x <<< 1) (shiftedOutLeft (s.getV x))).advance := rfl

theorem exec_rnd (x : Reg) (nn : Byte) (s : State) :
    exec (.rnd x nn) s = .next ((s.setV x (Config.freeDraw s.draws &&& nn)).nextDraw).advance := rfl

theorem exec_addI (x : Reg) (s : State) : exec (.addI x) s = .next (s.setI (s.i + zext8 (s.getV x))).advance := rfl

theorem exec_ldF (x : Reg) (s : State) :
    exec (.ldF x) s = .next (s.setI (glyphAddress (lowNibble (s.getV x)))).advance := rfl

theorem exec_skp (x : Reg) (s : State) :
    exec (.skp x) s = .next (s.skipIf (s.keyPressed (lowNibble (s.getV x)))) := rfl

theorem exec_sknp (x : Reg) (s : State) :
    exec (.sknp x) s = .next (s.skipIf (!s.keyPressed (lowNibble (s.getV x)))) := rfl

theorem exec_drw (x y : Reg) (n : Nibble) (s : State) :
    exec (.drw x y n) s =
      s.guarded (readGuard s.i n.toNat)
        ((s.setFb (s.drawn x y n).1).setV 15 (flagByte (s.drawn x y n).2)).advance := rfl

theorem exec_ldMiVx (x : Reg) (s : State) :
    exec (.ldMiVx x) s =
      s.guarded (writeGuard s.i (x.val + 1)) (s.setMem (s.mem.writeBytes (s.dataAddress 0) (s.regBlock x))).advance := rfl

theorem exec_ldVxMi (x : Reg) (s : State) :
    exec (.ldVxMi x) s =
      s.guarded (readGuard s.i (x.val + 1))
        (s.setRegs (loadBlock s.v 0 (s.mem.readBytes (s.dataAddress 0) (x.val + 1)))).advance := rfl

theorem exec_ret_of_empty {s : State} (h : s.sp.val = 0) : exec .ret s = .next (s.setFault (.stackUnderflow s.pc)) := by
  simp only [exec, execRet, s.pop_eq_none_iff.mpr h, State.raise_eq]

theorem exec_ret_of_entry {s : State} (h : 0 < s.sp.val) :
    exec .ret s = .next ({ s with sp := ⟨s.sp.val - 1, by omega⟩ }.setPc (s.stack[s.sp.val - 1])) := by
  simp only [exec, execRet, State.pop_of_entry h]

theorem exec_ldVxK_of_none {s : State} (x : Reg) (h : s.leastKey = none) : exec (.ldVxK x) s = .next s := by
  simp only [exec, execLdVxK, h]

theorem exec_ldVxK_of_some {s : State} {k : Nat} (x : Reg) (h : s.leastKey = some k) :
    exec (.ldVxK x) s = .next (s.setV x (BitVec.ofNat 8 k)).advance := by
  simp only [exec, execLdVxK, h]

/-- A byte keeps its value as a word. -/
theorem zext8_toNat (b : Byte) : (zext8 b).toNat = b.toNat :=
  BitVec.toNat_setWidth_of_le (by decide)

/-! ### Frames: nothing changed, more allowed, one after the other -/

theorem OnlyChanges.refl (s : State) (c : Part → Prop) : OnlyChanges s s c := by
  intro p _
  cases p
  all_goals rfl

theorem OnlyChanges.mono {s t : State} {c d : Part → Prop} (h : OnlyChanges s t c) (hcd : ∀ p, c p → d p) :
    OnlyChanges s t d :=
  fun p hp => h p (mt (hcd p) hp)

theorem OnlyChanges.trans {s t u : State} {c d : Part → Prop} (hst : OnlyChanges s t c) (htu : OnlyChanges t u d) :
    OnlyChanges s u (fun p => c p ∨ d p) := by
  intro p hp
  obtain ⟨hc, hd⟩ := not_or.mp hp
  exact (hst p hc).trans (htu p hd)

/-- The order in which `Writes` names `PC`. -/
theorem OnlyChanges.advance_writes {s t : State} {c : Part → Prop} (h : OnlyChanges s t c) :
    OnlyChanges s t.advance (fun p => p = .pc ∨ c p) :=
  h.advance.mono fun _ => Or.symm

/-! ### The frames of the remaining updates -/

theorem State.setResultAndFlag_onlyChanges_v (s : State) (x : Reg) (result flag : Byte) :
    OnlyChanges s (s.setResultAndFlag x result flag) (fun p => p = .v x ∨ p = .v 15) :=
  (s.setV_onlyChanges_v x result).trans (State.setV_onlyChanges_v _ 15 flag)

theorem State.nextDraw_onlyChanges_draws (s : State) : OnlyChanges s s.nextDraw (fun p => p = .draws) := by
  intro p hp
  cases p
  case draws => exact absurd rfl hp
  all_goals rfl

theorem State.setKeyCell_onlyChanges_key (s : State) (k : Key) (b : Bool) :
    OnlyChanges s (s.setKeyCell k b) (fun p => p = .key k) := by
  intro p hp
  cases p
  case key j =>
    have hne : k.val ≠ j.val := fun e => hp (congrArg Part.key (Fin.ext e.symm))
    exact s.keys.getElem_set_ne k.isLt j.isLt hne
  all_goals rfl

/-- `V[r]` after a block load, for the registers with a byte. -/
theorem State.getV_setRegs_loadBlock_of_lt (s : State) (bs : List Byte) (r : Reg) (h : r.val < bs.length) :
    (s.setRegs (loadBlock s.v 0 bs)).getV r = bs[r.val] := by
  rw [State.getV, State.setRegs_v]
  exact (loadBlock_get s.v 0 bs r.val r.isLt).trans (dif_pos ⟨Nat.zero_le _, h⟩)

theorem State.loadBlock_onlyChanges_v (s : State) (bs : List Byte) :
    OnlyChanges s (s.setRegs (loadBlock s.v 0 bs)) (fun p => ∃ r : Reg, p = .v r ∧ r.val < bs.length) := by
  intro p hp
  cases p
  case v r =>
    have hr : ¬ r.val < bs.length := fun hr => hp ⟨r, rfl, hr⟩
    exact (loadBlock_get s.v 0 bs r.val r.isLt).trans (dif_neg fun hh => hr hh.2)
  all_goals rfl

theorem State.push_onlyChanges_stack {s t : State} {w : Word} (h : s.push w = some t) :
    OnlyChanges s t (fun p => p = .sp ∨ ∃ k : Fin 16, p = .slot k ∧ k.val = s.sp.val) := by
  obtain ⟨hs, rfl⟩ := State.push_cases h
  intro p hp
  obtain ⟨hsp, hslot⟩ := not_or.mp hp
  cases p
  case sp => exact absurd rfl hsp
  case slot k =>
    have hne : s.sp.val ≠ k.val := fun e => hslot ⟨k, rfl, e.symm⟩
    exact s.stack.getElem_set_ne hs k.isLt hne
  all_goals rfl

theorem State.pop_onlyChanges_sp {s t : State} {w : Word} (h : s.pop = some (w, t)) :
    OnlyChanges s t (fun p => p = .sp) := by
  obtain ⟨_, _, rfl⟩ := State.pop_cases h
  intro p hp
  cases p
  case sp => exact absurd rfl hp
  all_goals rfl

/-! ### The access matrix -/

/-- A guarded effect stays in a frame when the effect does and the frame allows `FAULT`. -/
theorem State.guarded_onlyChanges {s t e : State} {g : Option Fault} {c : Part → Prop} (h : s.guarded g e = .next t)
    (he : OnlyChanges s e c) (hc : c .fault) : OnlyChanges s t c := by
  obtain ⟨-, rfl⟩ | ⟨f, -, rfl⟩ := State.guarded_cases h
  · exact he
  · exact (s.setFault_onlyChanges_fault f).mono fun p hp => hp ▸ hc

/-- Settles O56: per instruction, the frame of its updates lies in its write columns. -/
theorem accessMatrix : Obligations.AccessMatrix := by
  intro i s t h
  cases i
  case cls => cases h; exact (s.setFb_onlyChanges_pixels _).advance_writes
  case jp | jpV0 => cases h; exact (s.setPc_onlyChanges_pc _).mono fun _ => .inl
  case seImm | sneImm | seReg | sneReg | skp | sknp => cases h; exact (s.skipIf_onlyChanges_pc _).mono fun _ => .inl
  case ldImm | addImm | ldReg | orReg | andReg | xorReg | ldVxDt => cases h; exact (s.setV_onlyChanges_v _ _).advance_writes
  case addReg | subReg | shr | subnReg | shl => cases h; exact (s.setResultAndFlag_onlyChanges_v _ _ _).advance_writes
  case ldI | addI | ldF => cases h; exact (s.setI_onlyChanges_i _).advance_writes
  case ldDtVx => cases h; exact (s.setDt_onlyChanges_dt _).advance_writes
  case ldStVx => cases h; exact (s.setSt_onlyChanges_st _).advance_writes
  case rnd => cases h; exact ((s.setV_onlyChanges_v _ _).trans (State.nextDraw_onlyChanges_draws _)).advance_writes
  case ldVxK x =>
    cases hk : s.leastKey with
    | none => rw [exec_ldVxK_of_none x hk] at h; cases h; exact .refl s _
    | some k => rw [exec_ldVxK_of_some x hk] at h; cases h; exact (s.setV_onlyChanges_v _ _).advance_writes
  case ret =>
    by_cases hsp : s.sp.val = 0
    · rw [exec_ret_of_empty hsp] at h
      cases h
      exact (s.setFault_onlyChanges_fault _).mono fun _ hp => .inr (.inr hp)
    · have hpos := Nat.pos_of_ne_zero hsp
      rw [exec_ret_of_entry hpos] at h
      cases h
      exact ((State.pop_onlyChanges_sp (State.pop_of_entry hpos)).trans (State.setPc_onlyChanges_pc _ _)).mono
        fun p hp => hp.elim (fun hp => .inr (.inl hp)) .inl
  case call nnn =>
    by_cases hsp : s.sp.val = 16
    · rw [exec_call_of_full nnn hsp] at h
      cases h
      exact (s.setFault_onlyChanges_fault _).mono fun _ hp => .inr (.inr (.inl hp))
    · have hroom : s.sp.val < 16 := by omega
      rw [exec_call_of_room nnn hroom] at h
      cases h
      exact ((State.push_onlyChanges_stack (State.push_of_room _ hroom)).trans (State.setPc_onlyChanges_pc _ _)).mono
        fun p hp => hp.elim (fun hp => .inr (hp.imp_right .inr)) .inl
  case drw x y n =>
    refine State.guarded_onlyChanges h ?_ (.inr (.inr (.inl rfl)))
    exact ((s.setFb_onlyChanges_pixels _).trans (State.setV_onlyChanges_v _ 15 _)).advance_writes.mono
      fun p hp => hp.imp_right fun hp => hp.elim (fun hp => .inr (.inr hp)) .inl
  case ldB x =>
    exact State.guarded_onlyChanges h ((s.storeBytes_onlyChanges_stored _).advance_writes.mono fun p => .imp_right .inr)
      (.inr (.inl rfl))
  case ldMiVx x =>
    refine State.guarded_onlyChanges h ?_ (.inr (.inl rfl))
    have hframe := s.storeBytes_onlyChanges_stored (s.regBlock x)
    rw [State.regBlock_length] at hframe
    exact hframe.advance_writes.mono fun p => .imp_right .inr
  case ldVxMi x =>
    refine State.guarded_onlyChanges h ?_ (.inr (.inl rfl))
    have hframe := s.loadBlock_onlyChanges_v (s.mem.readBytes (s.dataAddress 0) (x.val + 1))
    rw [Memory.readBytes_length] at hframe
    exact hframe.advance_writes.mono fun p => .imp_right fun ⟨r, hp, hr⟩ => .inr ⟨r, hp, Nat.le_of_lt_succ hr⟩

end Sys2Proof.Machine

namespace Sys2Proof.Machine

/-! ## What executing an instruction can do: fault, or complete

`exec_cases` says it once: an instruction takes a fault whose condition holds, or it leaves `FAULT` alone and moves `PC` by its
kind. The obligations on faults, on `PC` and on the invariant are read off from it. -/

/-! ### Fault conditions (60_exceptions.md R97) -/

/-- The fault condition of `i` holds in `s`, with the record `f`. -/
def RaisesFault (i : Instr) (s : State) (f : Fault) : Prop :=
  match i with
  | .call _ => s.sp.val = 16 ∧ f = .stackOverflow s.pc
  | .ret => s.sp.val = 0 ∧ f = .stackUnderflow s.pc
  | .drw _ _ n => readGuard s.i n.toNat = some f
  | .ldVxMi x => readGuard s.i (x.val + 1) = some f
  | .ldB _ => writeGuard s.i 3 = some f
  | .ldMiVx x => writeGuard s.i (x.val + 1) = some f
  | _ => False

theorem RaisesFault.hasFaultCondition {i : Instr} {s : State} {f : Fault} (h : RaisesFault i s f) : HasFaultCondition i := by
  cases i
  case call | ret | drw | ldVxMi | ldB | ldMiVx => trivial
  all_goals exact h.elim

theorem readGuard_eq_some {a : Word} {n : Nat} {f : Fault} (h : readGuard a n = some f) :
    1 ≤ n ∧ 0x1000 < a.toNat + n ∧ f = .addressOutOfRange .read (firstAbsent a) := by
  rw [readGuard] at h
  split at h
  case isTrue hc => exact ⟨hc.1, by omega, (Option.some.inj h).symm⟩
  case isFalse => cases h

theorem writeGuard_eq_some {a : Word} {n : Nat} {f : Fault} (h : writeGuard a n = some f) :
    (a.toNat < 0x200 ∧ f = .addressOutOfRange .write a) ∨
      (0xFFF < a.toNat + n - 1 ∧ f = .addressOutOfRange .write (firstAbsent a)) := by
  rw [writeGuard] at h
  split at h
  case isTrue hc => exact .inl ⟨hc, (Option.some.inj h).symm⟩
  case isFalse =>
    split at h
    case isTrue hc => exact .inr ⟨hc, (Option.some.inj h).symm⟩
    case isFalse => cases h

/-! ### Completing -/

/-- A store through `I` that its guard let pass turned the memory of `s` into `m`. -/
def StoredThroughI (s : State) (m : Memory) : Prop :=
  ∃ bs : List Byte, m = s.mem.writeBytes s.i.toNat bs ∧ 0x200 ≤ s.i.toNat ∧ s.i.toNat + bs.length ≤ 0x1000

/-- What the instructions of kind `direct` write to `PC`: an address, an address plus a byte, or a slot. -/
def JumpTarget (s : State) (w : Word) : Prop :=
  (∃ nnn : Addr, w = zext12 nnn) ∨ (∃ (nnn : Addr) (b : Byte), w = zext12 nnn + zext8 b) ∨ ∃ k : Fin 16, w = s.stack[k]

/-- The memory `m` after `i` is that of `s`, or `i` is a store and its guard let it pass. -/
def MemAfter (i : Instr) (s : State) (m : Memory) : Prop :=
  m = s.mem ∨ (((∃ x, i = .ldB x) ∨ ∃ x, i = .ldMiVx x) ∧ StoredThroughI s m)

/-- Executing `i` in `s` took no fault and led to `t`. -/
structure Completes (i : Instr) (s t : State) : Prop where
  fault : t.fault = s.fault
  /-- `LD Vx, K` holds `PC` while no key is pressed. -/
  pc_sequential : pcKind i = .sequential → t.pc = s.pc + 2 ∨ t = s
  pc_skip : pcKind i = .skip → t.pc = s.pc + 2 ∨ t.pc = s.pc + 4
  pc_direct : pcKind i = .direct → JumpTarget s t.pc
  slot : ∀ k : Fin 16, t.stack[k] = s.stack[k] ∨ t.stack[k] = s.pc + 2
  mem : MemAfter i s t.mem

theorem Completes.of_advance {i : Instr} {s u : State} (hk : pcKind i = .sequential) (hpc : u.pc = s.pc)
    (hfault : u.fault = s.fault) (hstack : u.stack = s.stack) (hmem : MemAfter i s u.mem) : Completes i s u.advance where
  fault := hfault
  pc_sequential _ := .inl (congrArg (· + 2) hpc)
  pc_skip h := by rw [hk] at h; cases h
  pc_direct h := by rw [hk] at h; cases h
  slot k := .inl (by rw [State.advance_stack, hstack])
  mem := hmem

theorem Completes.of_skipIf {i : Instr} {s : State} (hk : pcKind i = .skip) (c : Bool) : Completes i s (s.skipIf c) := by
  rw [State.skipIf_eq]
  exact {
    fault := rfl
    pc_sequential := fun h => by rw [hk] at h; cases h
    pc_skip := fun _ => by cases c; exacts [.inl rfl, .inr rfl]
    pc_direct := fun h => by rw [hk] at h; cases h
    slot := fun _ => .inl rfl
    mem := .inl rfl }

theorem Completes.of_setPc {i : Instr} {s u : State} {w : Word} (hk : pcKind i = .direct) (hw : JumpTarget s w)
    (hfault : u.fault = s.fault) (hslot : ∀ k : Fin 16, u.stack[k] = s.stack[k] ∨ u.stack[k] = s.pc + 2)
    (hmem : u.mem = s.mem) : Completes i s (u.setPc w) where
  fault := hfault
  pc_sequential h := by rw [hk] at h; cases h
  pc_skip h := by rw [hk] at h; cases h
  pc_direct _ := hw
  slot := hslot
  mem := .inl hmem

theorem exec_cases {i : Instr} {s t : State} (h : exec i s = .next t) :
    (∃ f, RaisesFault i s f ∧ t = s.setFault f) ∨ Completes i s t := by
  cases i
  case jp nnn => cases h; exact .inr (.of_setPc rfl (.inl ⟨nnn, rfl⟩) rfl (fun _ => .inl rfl) rfl)
  case jpV0 nnn => cases h; exact .inr (.of_setPc rfl (.inr (.inl ⟨nnn, _, rfl⟩)) rfl (fun _ => .inl rfl) rfl)
  case seImm | sneImm | seReg | sneReg | skp | sknp => cases h; exact .inr (.of_skipIf rfl _)
  case call nnn =>
    by_cases hsp : s.sp.val = 16
    · rw [exec_call_of_full nnn hsp] at h
      cases h
      exact .inl ⟨_, ⟨hsp, rfl⟩, rfl⟩
    · have hroom : s.sp.val < 16 := by omega
      rw [exec_call_of_room nnn hroom] at h
      cases h
      refine .inr (.of_setPc rfl (.inl ⟨nnn, rfl⟩) rfl (fun k => ?_) rfl)
      by_cases hk : s.sp.val = k.val
      · exact .inr (by simp [← hk])
      · exact .inl (s.stack.getElem_set_ne hroom k.isLt hk)
  case ret =>
    by_cases hsp : s.sp.val = 0
    · rw [exec_ret_of_empty hsp] at h
      cases h
      exact .inl ⟨_, ⟨hsp, rfl⟩, rfl⟩
    · rw [exec_ret_of_entry (Nat.pos_of_ne_zero hsp)] at h
      cases h
      exact .inr (.of_setPc rfl (.inr (.inr ⟨⟨s.sp.val - 1, by omega⟩, rfl⟩)) rfl (fun _ => .inl rfl) rfl)
  case ldVxK x =>
    cases hk : s.leastKey with
    | none =>
      rw [exec_ldVxK_of_none x hk] at h
      cases h
      exact .inr ⟨rfl, fun _ => .inr rfl, nofun, nofun, fun _ => .inl rfl, .inl rfl⟩
    | some k =>
      rw [exec_ldVxK_of_some x hk] at h
      cases h
      exact .inr (.of_advance rfl rfl rfl rfl (.inl rfl))
  case drw | ldVxMi =>
    obtain ⟨-, rfl⟩ | ⟨f, hf, rfl⟩ := State.guarded_cases h
    · exact .inr (.of_advance rfl rfl rfl rfl (.inl rfl))
    · exact .inl ⟨f, hf, rfl⟩
  case ldB x =>
    obtain ⟨hg, rfl⟩ | ⟨f, hf, rfl⟩ := State.guarded_cases h
    · obtain ⟨hlow, hhigh⟩ := (writeGuard_eq_none_iff _ _).mp hg
      exact .inr (.of_advance rfl rfl rfl rfl (.inr ⟨.inl ⟨x, rfl⟩, _, rfl, hlow, hhigh⟩))
    · exact .inl ⟨f, hf, rfl⟩
  case ldMiVx x =>
    obtain ⟨hg, rfl⟩ | ⟨f, hf, rfl⟩ := State.guarded_cases h
    · obtain ⟨hlow, hhigh⟩ := (writeGuard_eq_none_iff _ _).mp hg
      exact .inr (.of_advance rfl rfl rfl rfl
        (.inr ⟨.inr ⟨x, rfl⟩, _, rfl, hlow, by rw [State.regBlock_length]; exact hhigh⟩))
    · exact .inl ⟨f, hf, rfl⟩
  all_goals cases h; exact .inr (.of_advance rfl rfl rfl rfl (.inl rfl))

end Sys2Proof.Machine

namespace Sys2Proof.Machine

/-! ## One step: faults, halting, and the machine before its first reset -/

/-! ### Every instruction answers a next state -/

theorem State.guarded_total (s : State) (g : Option Fault) (e : State) : ∃ t, s.guarded g e = .next t := by
  cases g with
  | none => exact ⟨_, s.guarded_none e⟩
  | some f => exact ⟨_, s.guarded_some e f⟩

theorem exec_total (i : Instr) (s : State) : ∃ t, exec i s = .next t := by
  cases i
  case ret =>
    rcases Nat.eq_zero_or_pos s.sp.val with h | h
    exacts [⟨_, exec_ret_of_empty h⟩, ⟨_, exec_ret_of_entry h⟩]
  case call nnn =>
    rcases Nat.lt_or_eq_of_le (Nat.le_of_lt_succ s.sp.isLt) with h | h
    exacts [⟨_, exec_call_of_room nnn h⟩, ⟨_, exec_call_of_full nnn h⟩]
  case ldVxK x =>
    cases h : s.leastKey with
    | none => exact ⟨_, exec_ldVxK_of_none x h⟩
    | some k => exact ⟨_, exec_ldVxK_of_some x h⟩
  case drw | ldB | ldMiVx | ldVxMi => exact s.guarded_total _ _
  all_goals exact ⟨_, rfl⟩

/-! ### The `STEP` event by its cases, and the other events -/

/-- R96: a halted machine does nothing. -/
theorem stepEvent_of_fault {s : State} {f : Fault} (h : s.fault = some f) : stepEvent s = .next s := by
  simp only [stepEvent, h]

theorem stepEvent_of_fetch_ok {s : State} {i : Instr} (hs : s.fault = none) (hf : s.fetch = .ok i) :
    stepEvent s = exec i s := by
  simp only [stepEvent, hs, hf]

theorem stepEvent_total (s : State) : ∃ t, stepEvent s = .next t := by
  cases hs : s.fault with
  | some f => exact ⟨s, stepEvent_of_fault hs⟩
  | none =>
    cases hf : s.fetch with
    | error f => exact ⟨_, stepEvent_of_fetch_error hs hf⟩
    | ok i => rw [stepEvent_of_fetch_ok hs hf]; exact exec_total i s

theorem step_of_init {s : State} (he : s.nextEvent = .init) : step s = .next s.popEvent.initMachine := by
  simp only [step, he]

theorem step_of_load {s : State} {bytes : List Byte} (he : s.nextEvent = .load bytes) :
    step s = .next (s.popEvent.load bytes) := by
  simp only [step, he]

theorem step_of_setKey {s : State} {k : Key} {b : Bool} (he : s.nextEvent = .setKey k b) (hr : s.ready = true) :
    step s = .next (s.popEvent.setKeyCell k b) := by
  simp only [step, he, onceReset_ready hr, State.setKey]

theorem State.fetch_of_fetchGuard_some {s : State} {f : Fault} (h : fetchGuard s.pc = some f) : s.fetch = .error f := by
  simp only [State.fetch, h]

theorem stepEvent_of_step {s t : State} (he : s.nextEvent = .step) (h : step s = .next t) :
    stepEvent s.popEvent = .next t := by
  rcases step_cases h with ⟨he', -⟩ | ⟨_, he', -⟩ | ⟨-, -, hs⟩ | ⟨he', -⟩ | ⟨_, _, he', -⟩
  case inr.inr.inl => exact hs
  all_goals rw [he] at he'; cases he'

/-- In a step that performs a `STEP`, what changed is `FAULT`, or is in the write columns of the instruction fetched. -/
theorem step_changes {s t : State} {p : Part} (he : s.nextEvent = .step) (h : step s = .next t)
    (hp : ¬ Part.Same s.popEvent t p) : p = .fault ∨ ∃ i, s.fetch = .ok i ∧ Writes i s.popEvent p := by
  rcases stepEvent_cases (stepEvent_of_step he h) with ⟨-, rfl⟩ | ⟨-, f, -, rfl⟩ | ⟨-, i, hf, hx⟩
  · exact absurd (OnlyChanges.refl _ (fun _ => False) p id) hp
  · exact .inl (not_imp_comm.mp (State.setFault_onlyChanges_fault _ f p) hp)
  · exact .inr ⟨i, hf, not_imp_comm.mp (accessMatrix i _ t hx p) hp⟩

/-! ### The obligations -/

/-- Settles O6: the guard passes and the word decodes, so the fetch gives the instruction. -/
theorem stepRunsTheDecodedInstruction : Obligations.StepRunsTheDecodedInstruction := by
  intro s i he hr hs hlow hhigh heven hdecode
  have hword : decodeWord s.fetchWord = .ok i := by
    rw [decodeBytes_cons_cons] at hdecode
    cases hd : decodeWord (joinBytes (s.mem.read s.pc.toNat) (s.mem.read (s.pc.toNat + 1))) with
    | error r => rw [hd] at hdecode; cases hdecode
    | ok j => rw [hd] at hdecode; cases hdecode; exact hd
  have hfetch : s.fetch = .ok i :=
    (s.fetch_eq_ok_iff i).mpr ⟨(fetchGuard_eq_none_iff _).mpr ⟨hlow, hhigh, heven⟩, hword⟩
  exact (step_of_step he hr).trans (stepEvent_of_fetch_ok hs hfetch)

/-- Settles O7: the fetch guard does not pass, and its one fault is taken. -/
theorem badFetchAddressFaults : Obligations.BadFetchAddressFaults := by
  intro s he hr hs hpc
  obtain ⟨f, hguard⟩ : ∃ f, fetchGuard s.pc = some f := by
    rw [← Option.ne_none_iff_exists', ne_eq, fetchGuard_eq_none_iff]
    omega
  have hstep : step s = .next (s.popEvent.setFault f) :=
    (step_of_step he hr).trans (stepEvent_of_fetch_error hs (State.fetch_of_fetchGuard_some hguard))
  exact ⟨_, hstep, congrArg some (fetchGuard_fault hguard), State.setFault_onlyChanges_fault _ _⟩

/-- R101 on numbers: a countdown is a subtraction with its floor at 0. -/
theorem countDown_toNat_eq_sub (b : Byte) : (countDown b).toNat = b.toNat - 1 := by
  rw [countDown_toNat]
  split
  case isTrue hb => rw [hb]; rfl
  case isFalse => rfl

/-- Settles O9: `STEP` looks at `FAULT` first, `TICK` and `SETKEY` do not look at it. -/
theorem haltedMachine : Obligations.HaltedMachine := by
  intro s f hr hs
  refine ⟨fun he => ⟨?_, ?_⟩, fun he => ?_, fun k b he => ?_⟩
  · exact (step_of_step he hr).trans (stepEvent_of_fault (f := f) hs)
  · simp only [State.stepResult, onceReset_ready hr, stepEvent_of_fault hs, hs]
  · exact ⟨_, step_of_tick he hr, countDown_toNat_eq_sub s.dt, countDown_toNat_eq_sub s.st⟩
  · exact ⟨_, step_of_setKey he hr, s.keys.getElem_set_self k.isLt⟩

/-- Settles O10: no event but a reset writes `FAULT` on a halted machine. -/
theorem onlyResetClearsAFault : Obligations.OnlyResetClearsAFault := by
  intro s t f hs h
  rcases step_cases h with ⟨he, rfl⟩ | ⟨bytes, he, rfl⟩ | ⟨he, -, hstep⟩ | ⟨he, -, rfl⟩ | ⟨k, b, he, -, rfl⟩
  · exact .inr ⟨rfl, .inl he⟩
  · rcases Nat.lt_or_ge 3584 bytes.length with hlen | hlen
    · rw [State.load_rejected hlen, he]
      exact .inl ⟨hs, nofun, fun _ hb => Event.load.inj hb ▸ hlen⟩
    · rw [State.load_fits hlen]
      exact .inr ⟨rfl, .inr ⟨bytes, he, hlen⟩⟩
  · rw [stepEvent_of_fault (s := s.popEvent) hs] at hstep
    cases hstep
    rw [he]
    exact .inl ⟨hs, nofun, nofun⟩
  · rw [he]
    exact .inl ⟨hs, nofun, nofun⟩
  · rw [he]
    exact .inl ⟨hs, nofun, nofun⟩

/-- Settles O11: a fetch that fails and an instruction that faults take the fault; all else leaves `FAULT` as `none`. -/
theorem faultsArePrecise : Obligations.FaultsArePrecise := by
  intro s t f hs h hf
  rcases step_cases h with ⟨-, rfl⟩ | ⟨bytes, -, rfl⟩ | ⟨-, -, hstep⟩ | ⟨-, -, rfl⟩ | ⟨k, b, -, -, rfl⟩
  · cases hf
  · rcases Nat.lt_or_ge 3584 bytes.length with hlen | hlen
    · rw [State.load_rejected hlen] at hf
      cases hs.symm.trans hf
    · rw [State.load_fits hlen] at hf
      cases hf
  · rcases stepEvent_cases hstep with ⟨-, rfl⟩ | ⟨-, g, -, rfl⟩ | ⟨-, i, -, hx⟩
    · cases hs.symm.trans hf
    · cases hf
      rfl
    · rcases exec_cases hx with ⟨g, -, rfl⟩ | hc
      · cases hf
        rfl
      · cases (hc.fault.trans hs).symm.trans hf
  · cases hs.symm.trans hf
  · cases hs.symm.trans hf

/-- Settles O12: the fault condition of the instruction held, and each is one of the listed pairs. -/
theorem faultKindsOfInstructions : Obligations.FaultKindsOfInstructions := by
  intro i s t f hs h hf
  have hraise : RaisesFault i s f := by
    rcases exec_cases h with ⟨g, hg, rfl⟩ | hc
    · cases hf
      exact hg
    · cases (hc.fault.trans hs).symm.trans hf
  cases i
  case call nnn => exact .inl ⟨nnn, rfl, Fin.ext hraise.1, hraise.2⟩
  case ret => exact .inr (.inl ⟨rfl, Fin.ext hraise.1, hraise.2⟩)
  case drw x y n => exact .inr (.inr (.inl ⟨x, y, n, rfl, readGuard_eq_some hraise⟩))
  case ldVxMi x =>
    obtain ⟨-, hhigh, hfault⟩ := readGuard_eq_some hraise
    exact .inr (.inr (.inr (.inl ⟨x, rfl, by omega, hfault⟩)))
  case ldB x =>
    rcases writeGuard_eq_some hraise with ⟨hlow, hfault⟩ | ⟨hhigh, hfault⟩
    · exact .inr (.inr (.inr (.inr (.inl ⟨rfl, hlow, hfault⟩))))
    · exact .inr (.inr (.inr (.inr (.inr (.inl ⟨x, rfl, hhigh, hfault⟩)))))
  case ldMiVx x =>
    rcases writeGuard_eq_some hraise with ⟨hlow, hfault⟩ | ⟨hhigh, hfault⟩
    · exact .inr (.inr (.inr (.inr (.inl ⟨rfl, hlow, hfault⟩))))
    · exact .inr (.inr (.inr (.inr (.inr (.inr ⟨x, rfl, hhigh, hfault⟩)))))
  all_goals exact hraise.elim

/-- No instruction has the condition of R110 in its write columns. -/
theorem not_writes_ready (i : Instr) (s : State) : ¬ Writes i s .ready := by
  cases i
  all_goals simp [Writes]

/-- A `STEP` leaves the condition of R110 alone. -/
theorem step_ready {s t : State} (he : s.nextEvent = .step) (h : step s = .next t) : t.ready = s.ready := by
  by_contra hne
  obtain hp | ⟨i, -, hw⟩ := step_changes (p := .ready) he h hne
  · cases hp
  · exact not_writes_ready i _ hw

/-- Settles O14: an event of a reset machine answers a next state, since a fault is a next state too. -/
theorem stepAlwaysAnswersANextState : Obligations.StepAlwaysAnswersANextState := by
  refine ⟨fun s hr => ?_, exec_total⟩
  cases he : s.nextEvent with
  | init => exact ⟨_, step_of_init he, rfl⟩
  | load bytes =>
    refine ⟨_, step_of_load he, ?_⟩
    rcases Nat.lt_or_ge 3584 bytes.length with hlen | hlen
    · rw [State.load_rejected hlen]; exact hr
    · rw [State.load_fits hlen]; rfl
  | step =>
    obtain ⟨t, hstep⟩ := stepEvent_total s.popEvent
    have h : step s = .next t := (step_of_step he hr).trans hstep
    exact ⟨t, h, (step_ready he h).trans hr⟩
  | tick => exact ⟨_, step_of_tick he hr, hr⟩
  | setKey k b => exact ⟨_, step_of_setKey he hr, hr⟩

/-- Settles O15: only the two resets are defined in every state, and a rejected `LOAD` is none. -/
theorem refusedBeforeFirstReset : Obligations.RefusedBeforeFirstReset := by
  intro s hr
  have hrefused : ∀ r : Result, onceReset s r = .refused .beforeFirstReset := fun r => by
    rw [onceReset, hr]; rfl
  refine ⟨fun he => ?_, fun he => ⟨_, step_of_init he, rfl⟩, fun bytes he => ⟨_, step_of_load he, ?_⟩⟩
  · rcases he with he | he | ⟨k, b, he⟩
    all_goals simp only [step, he, hrefused]
  · rcases Nat.lt_or_ge 3584 bytes.length with hlen | hlen
    · rw [State.load_rejected hlen, State.popEvent_ready, hr]
      exact ⟨nofun, fun hle => absurd hlen (Nat.not_lt.mpr hle)⟩
    · rw [State.load_fits hlen]
      exact ⟨fun _ => hlen, fun _ => rfl⟩

/-- Settles O47: a `SETKEY` is one write of a latch cell. -/
theorem setKeyWritesOneCell : Obligations.SetKeyWritesOneCell := by
  intro s k b he hr
  exact ⟨_, step_of_setKey he hr, s.keys.getElem_set_self k.isLt, State.setKeyCell_onlyChanges_key _ k b⟩

/-- Settles O60: the jump writes to `PC` what it holds. -/
theorem selfJumpChangesNothing : Obligations.SelfJumpChangesNothing := by
  rintro s ⟨hs, nnn, hfetch, hpc⟩ hr he
  refine ⟨?_, hs, nnn, hfetch, hpc⟩
  calc step s = exec (.jp nnn) s.popEvent := (step_of_step he hr).trans (stepEvent_of_fetch_ok hs hfetch)
    _ = .next (s.popEvent.setPc (zext12 nnn)) := exec_jp nnn _
    _ = .next s.popEvent := by rw [hpc]; rfl

end Sys2Proof.Machine

namespace Sys2Proof.Machine

/-! ## The invariant

`State.Inv` looks at memory, the stack and `PC` only. A `STEP` executes an instruction only after a fetch, which bounds `PC`;
so what it pushes and where it goes stay in bounds. -/

theorem State.Inv.congr {s t : State} (h : s.Inv) (hmem : t.mem = s.mem) (hstack : t.stack = s.stack) (hpc : t.pc = s.pc) :
    t.Inv := by
  rw [State.Inv, hmem, hstack, hpc]
  exact h

theorem State.Inv.setFault {s : State} (h : s.Inv) (f : Fault) : (s.setFault f).Inv :=
  h.congr rfl rfl rfl

/-- Settles O54: memory lists nothing, the slots are 0 and `PC` is `0x200`. -/
theorem resetMeetsTheInvariant : Obligations.ResetMeetsTheInvariant := by
  refine ⟨rfl, rfl, fun k => ?_, by decide⟩
  simp [State.reset]

theorem State.initMachine_inv (s : State) : s.initMachine.Inv :=
  resetMeetsTheInvariant.congr rfl rfl rfl

theorem State.load_inv {s : State} (h : s.Inv) (bytes : List Byte) : (s.load bytes).Inv := by
  rcases Nat.lt_or_ge 3584 bytes.length with hlen | hlen
  · rw [State.load_rejected hlen]
    exact h
  · obtain ⟨-, -, hslot, hpc⟩ := s.initMachine_inv
    rw [State.load_fits hlen]
    exact ⟨Memory.wf_writeBytes rfl bytes (by omega), Memory.reservedIntact_writeBytes rfl (Nat.le_refl _) bytes, hslot, hpc⟩

theorem StoredThroughI.wf {s : State} {m : Memory} (h : StoredThroughI s m) (hs : s.mem.wf = true) : m.wf = true := by
  obtain ⟨bs, rfl, -, hhigh⟩ := h
  exact Memory.wf_writeBytes hs bs hhigh

theorem StoredThroughI.reservedIntact {s : State} {m : Memory} (h : StoredThroughI s m) (hs : s.mem.reservedIntact = true) :
    m.reservedIntact = true := by
  obtain ⟨bs, rfl, hlow, -⟩ := h
  exact Memory.reservedIntact_writeBytes hs hlow bs

/-- `PC` after an instruction that was fetched: at most `0xFFE + 4`, a 12-bit address and a byte, or a slot. -/
theorem Completes.pc_le {i : Instr} {s t : State} (hc : Completes i s t) (hfetch : s.pc.toNat ≤ 0xFFE)
    (hslot : ∀ k : Fin 16, s.stack[k].toNat ≤ 0x1000) : t.pc.toNat ≤ 0x10FE := by
  cases hk : pcKind i with
  | sequential =>
    rcases hc.pc_sequential hk with h | rfl
    · rw [h]; bv_omega
    · omega
  | skip =>
    rcases hc.pc_skip hk with h | h
    all_goals rw [h]; bv_omega
  | direct =>
    rcases hc.pc_direct hk with ⟨nnn, h⟩ | ⟨nnn, b, h⟩ | ⟨k, h⟩
    · rw [h, zext12_toNat]; omega
    · rw [h, BitVec.toNat_add, zext12_toNat, zext8_toNat]; omega
    · rw [h]; exact (hslot k).trans (by decide)

theorem Completes.inv {i : Instr} {s t : State} (hc : Completes i s t) (hfetch : s.pc.toNat ≤ 0xFFE) (h : s.Inv) : t.Inv := by
  obtain ⟨hwf, hres, hslot, -⟩ := h
  refine ⟨?wf, ?reserved, fun k => ?slot, hc.pc_le hfetch hslot⟩
  case wf =>
    rcases hc.mem with hm | ⟨-, hst⟩
    exacts [hm ▸ hwf, hst.wf hwf]
  case reserved =>
    rcases hc.mem with hm | ⟨-, hst⟩
    exacts [hm ▸ hres, hst.reservedIntact hres]
  case slot =>
    rcases hc.slot k with hk | hk
    · rw [hk]; exact hslot k
    · rw [hk]; bv_omega

theorem stepEvent_inv {s t : State} (h : s.Inv) (hstep : stepEvent s = .next t) : t.Inv := by
  rcases stepEvent_cases hstep with ⟨-, rfl⟩ | ⟨-, f, -, rfl⟩ | ⟨-, i, hfetch, hx⟩
  · exact h
  · exact h.setFault f
  · obtain ⟨-, hpc, -⟩ := (fetchGuard_eq_none_iff _).mp ((s.fetch_eq_ok_iff i).mp hfetch).1
    rcases exec_cases hx with ⟨f, -, rfl⟩ | hc
    · exact h.setFault f
    · exact hc.inv hpc h

/-- Settles O53: per event; the resets establish the invariant, and `TICK` and `SETKEY` write nothing it looks at. -/
theorem stepKeepsTheInvariant : Obligations.StepKeepsTheInvariant := by
  intro s t h hstep
  have hpop : s.popEvent.Inv := h.congr rfl rfl rfl
  rcases step_cases hstep with ⟨-, rfl⟩ | ⟨bytes, -, rfl⟩ | ⟨-, -, hs⟩ | ⟨-, -, rfl⟩ | ⟨k, b, -, -, rfl⟩
  · exact State.initMachine_inv _
  · exact State.load_inv hpop bytes
  · exact stepEvent_inv hpop hs
  · exact hpop.congr rfl rfl rfl
  · exact hpop.congr rfl rfl rfl

/-- Settles O55: in both states the reserved region reads as its reset contents. -/
theorem reservedRegionIsImmutable : Obligations.ReservedRegionIsImmutable := by
  intro s t h hstep a ha
  obtain ⟨-, ht, -⟩ := stepKeepsTheInvariant s t h hstep
  obtain ⟨-, hs, -⟩ := h
  have hread : t.mem.read a = Memory.resetByte a := Memory.read_reserved ht ha
  exact ⟨hread.trans (Memory.read_reserved hs ha).symm, hread⟩

end Sys2Proof.Machine

namespace Sys2Proof.Machine

/-! ## The writers of each element

`Writes`, read backwards: which instructions have a given part in their write columns. -/

theorem Writes.destination_or_flag {i : Instr} {s : State} {r : Reg} (h : Writes i s (.v r)) :
    Destination i r ∨ (r = 15 ∧ FlagWriter i) := by
  cases i
  all_goals simp [Writes, Destination, FlagWriter] at h ⊢
  all_goals exact h

theorem Writes.i_writer {i : Instr} {s : State} (h : Writes i s .i) :
    (∃ nnn, i = .ldI nnn) ∨ (∃ x, i = .addI x) ∨ ∃ x, i = .ldF x := by
  cases i
  all_goals simp [Writes] at h ⊢

theorem Writes.sp_writer {i : Instr} {s : State} (h : Writes i s .sp) : (∃ nnn, i = .call nnn) ∨ i = .ret := by
  cases i
  all_goals simp [Writes] at h ⊢

theorem Writes.slot_writer {i : Instr} {s : State} {k : Fin 16} (h : Writes i s (.slot k)) : ∃ nnn, i = .call nnn := by
  cases i
  all_goals simp [Writes] at h ⊢

theorem Writes.dt_writer {i : Instr} {s : State} (h : Writes i s .dt) : ∃ x, i = .ldDtVx x := by
  cases i
  all_goals simp [Writes] at h ⊢

theorem Writes.st_writer {i : Instr} {s : State} (h : Writes i s .st) : ∃ x, i = .ldStVx x := by
  cases i
  all_goals simp [Writes] at h ⊢

theorem Writes.pixel_writer {i : Instr} {s : State} {y : Fin 32} {x : Fin 64} (h : Writes i s (.pixel y x)) :
    i = .cls ∨ ∃ x y n, i = .drw x y n := by
  cases i
  all_goals simp [Writes] at h ⊢

theorem Writes.draws_writer {i : Instr} {s : State} (h : Writes i s .draws) : ∃ x nn, i = .rnd x nn := by
  cases i
  all_goals simp [Writes] at h ⊢

theorem not_writes_key (i : Instr) (s : State) (k : Key) : ¬ Writes i s (.key k) := by
  cases i
  all_goals simp [Writes]

/-! ### An element that changed in a `STEP` -/

/-- Of a part other than `FAULT`: the instruction fetched has it in its write columns. -/
theorem exists_writes_of_changed {s t : State} {p : Part} (he : s.nextEvent = .step) (h : step s = .next t)
    (hp : ¬ Part.Same s.popEvent t p) (hpf : p ≠ .fault) : ∃ i, s.fetch = .ok i ∧ Writes i s.popEvent p :=
  (step_changes he h hp).resolve_left hpf

theorem FrameBuffer.ext_pixel {f g : FrameBuffer} (h : ∀ (y : Fin 32) (x : Fin 64), f[y][x] = g[y][x]) : f = g := by
  apply Vector.ext
  intro y hy
  apply Vector.ext
  intro x hx
  exact h ⟨y, hy⟩ ⟨x, hx⟩

/-- A step that performs a `STEP`: nothing but the event is gone, a fault is taken, or an instruction completes. -/
theorem step_cases_of_step {s t : State} (he : s.nextEvent = .step) (h : step s = .next t) :
    t = s.popEvent ∨ (s.fault = none ∧ ∃ f, t = s.popEvent.setFault f ∧
      (s.fetch = .error f ∨ ∃ i, s.fetch = .ok i ∧ HasFaultCondition i)) ∨
    (s.fault = none ∧ ∃ i, s.fetch = .ok i ∧ Completes i s.popEvent t) := by
  rcases stepEvent_cases (stepEvent_of_step he h) with ⟨-, rfl⟩ | ⟨hs, f, hf, rfl⟩ | ⟨hs, i, hf, hx⟩
  · exact .inl rfl
  · exact .inr (.inl ⟨hs, f, rfl, .inl hf⟩)
  · rcases exec_cases hx with ⟨f, hraise, rfl⟩ | hc
    · exact .inr (.inl ⟨hs, f, rfl, .inr ⟨i, hf, hraise.hasFaultCondition⟩⟩)
    · exact .inr (.inr ⟨hs, i, hf, hc⟩)

/-! ### The obligations -/

/-- Settles O57: element by element, from the write columns of the instruction fetched; memory, `PC` and `FAULT`, which need
more than the columns say, from the three cases of a `STEP`. -/
theorem writersOfEachElement : Obligations.WritersOfEachElement := by
  intro s t he h
  refine ⟨?v, ?i, ?pc, ?sp, ?stack, ?dt, ?st, ?fb, ?keys, ?mem, ?fault, step_ready he h, ?draws⟩
  case v =>
    intro r hne
    obtain ⟨i, hf, hw⟩ := exists_writes_of_changed (p := .v r) he h hne nofun
    exact ⟨i, hf, hw.destination_or_flag⟩
  case i =>
    intro hne
    obtain ⟨i, hf, hw⟩ := exists_writes_of_changed (p := .i) he h hne nofun
    rcases hw.i_writer with ⟨nnn, rfl⟩ | ⟨x, rfl⟩ | ⟨x, rfl⟩
    exacts [.inl ⟨nnn, hf⟩, .inr (.inl ⟨x, hf⟩), .inr (.inr ⟨x, hf⟩)]
  case pc =>
    intro hne
    rcases step_cases_of_step he h with rfl | ⟨-, f, rfl, -⟩ | ⟨hs, i, hf, hc⟩
    · exact absurd rfl hne
    · exact absurd rfl hne
    · refine ⟨hs, hc.fault.trans hs, i, hf, fun hk => ?_, hc.pc_skip⟩
      exact (hc.pc_sequential hk).resolve_right fun ht => hne (show t.pc = s.popEvent.pc from ht ▸ rfl)
  case sp =>
    intro hne
    obtain ⟨i, hf, hw⟩ := exists_writes_of_changed (p := .sp) he h hne nofun
    rcases hw.sp_writer with ⟨nnn, rfl⟩ | rfl
    exacts [.inl ⟨nnn, hf⟩, .inr hf]
  case stack =>
    intro hne
    obtain ⟨k, hk⟩ : ∃ k : Fin 16, t.stack[k] ≠ s.stack[k] :=
      not_forall.mp fun hall => hne (Vector.ext fun k hk => hall ⟨k, hk⟩)
    obtain ⟨i, hf, hw⟩ := exists_writes_of_changed (p := .slot k) he h hk nofun
    obtain ⟨nnn, rfl⟩ := hw.slot_writer
    exact ⟨nnn, hf⟩
  case dt =>
    intro hne
    obtain ⟨i, hf, hw⟩ := exists_writes_of_changed (p := .dt) he h hne nofun
    obtain ⟨x, rfl⟩ := hw.dt_writer
    exact ⟨x, hf⟩
  case st =>
    intro hne
    obtain ⟨i, hf, hw⟩ := exists_writes_of_changed (p := .st) he h hne nofun
    obtain ⟨x, rfl⟩ := hw.st_writer
    exact ⟨x, hf⟩
  case fb =>
    intro hne
    obtain ⟨y, x, hp⟩ : ∃ (y : Fin 32) (x : Fin 64), t.fb[y][x] ≠ s.fb[y][x] := by
      by_contra hall
      push Not at hall
      exact hne (FrameBuffer.ext_pixel hall)
    obtain ⟨i, hf, hw⟩ := exists_writes_of_changed (p := .pixel y x) he h hp nofun
    rcases hw.pixel_writer with rfl | ⟨x, y, n, rfl⟩
    exacts [.inl hf, .inr ⟨x, y, n, hf⟩]
  case keys =>
    refine Vector.ext fun k hk => ?_
    by_contra hne
    obtain ⟨i, -, hw⟩ := exists_writes_of_changed (p := .key ⟨k, hk⟩) he h hne nofun
    exact not_writes_key i _ _ hw
  case mem =>
    intro hne
    rcases step_cases_of_step he h with rfl | ⟨-, f, rfl, -⟩ | ⟨-, i, hf, hc⟩
    · exact absurd rfl hne
    · exact absurd rfl hne
    · rcases hc.mem with hm | ⟨⟨x, rfl⟩ | ⟨x, rfl⟩, -⟩
      exacts [absurd hm hne, .inl ⟨x, hf⟩, .inr ⟨x, hf⟩]
  case fault =>
    intro hne
    rcases step_cases_of_step he h with rfl | ⟨hs, f, rfl, hcause⟩ | ⟨-, i, -, hc⟩
    · exact absurd rfl hne
    · exact ⟨hs, f, rfl, hcause⟩
    · exact absurd hc.fault hne
  case draws =>
    intro hne
    obtain ⟨i, hf, hw⟩ := exists_writes_of_changed (p := .draws) he h hne nofun
    obtain ⟨x, nn, rfl⟩ := hw.draws_writer
    exact ⟨x, nn, hf⟩

/-- Settles O58: of the other events `TICK` lowers the timer, a reset zeroes it, and the rest leave it alone. -/
theorem delayTimerRisesOnlyWhenWritten : Obligations.DelayTimerRisesOnlyWhenWritten := by
  intro s t h hrise
  rcases step_cases h with ⟨-, rfl⟩ | ⟨bytes, -, rfl⟩ | ⟨he, -⟩ | ⟨-, -, rfl⟩ | ⟨k, b, -, -, rfl⟩
  case inr.inr.inl =>
    have hne : t.dt ≠ s.dt := fun e => absurd hrise (e ▸ Nat.lt_irrefl _)
    obtain ⟨i, hf, hw⟩ := exists_writes_of_changed (p := .dt) he h hne nofun
    obtain ⟨x, rfl⟩ := hw.dt_writer
    exact ⟨he, x, hf⟩
  all_goals exfalso
  · exact absurd hrise (Nat.not_lt_zero _)
  · rcases Nat.lt_or_ge 3584 bytes.length with hlen | hlen
    · rw [State.load_rejected hlen] at hrise
      exact absurd hrise (Nat.lt_irrefl _)
    · rw [State.load_fits hlen] at hrise
      exact absurd hrise (Nat.not_lt_zero _)
  · rw [State.tick_dt, countDown_toNat_eq_sub, State.popEvent_dt] at hrise
    omega
  · exact absurd hrise (Nat.lt_irrefl _)

end Sys2Proof.Machine

namespace Sys2Proof.Machine

/-! ## Control flow: `JP V0`, `CALL`, `RET`, and the skips on a key -/

/-- Settles O17: the sum of an address and a byte fits in 16 bits. -/
theorem jumpWithOffsetAddsV0 : Obligations.JumpWithOffsetAddsV0 := by
  intro nnn s
  have hsum : (zext12 nnn + zext8 (s.getV 0)).toNat = nnn.toNat + (s.getV 0).toNat := by
    rw [BitVec.toNat_add, zext12_toNat, zext8_toNat]
    omega
  exact ⟨_, exec_jpV0 nnn s, hsum, s.setPc_onlyChanges_pc _⟩

/-- Settles O18: the push and the jump, or the fault of the full stack. -/
theorem callPushesTheReturnAddress : Obligations.CallPushesTheReturnAddress := by
  intro nnn s
  refine ⟨fun k hk => ?room, fun hsp => ?full⟩
  case full => exact ⟨_, exec_call_of_full nnn (congrArg Fin.val hsp), rfl, s.setFault_onlyChanges_fault _⟩
  have hroom : s.sp.val < 16 := hk ▸ k.isLt
  refine ⟨_, exec_call_of_room nnn hroom, ?slot, rfl, zext12_toNat nnn, ?frame⟩
  case slot =>
    have hslot : (s.stack.set s.sp.val (s.pc + 2))[k] = s.pc + 2 := by simp [← hk]
    exact (congrArg BitVec.toNat hslot).trans (BitVec.toNat_add s.pc 2)
  case frame =>
    refine ((State.push_onlyChanges_stack (State.push_of_room _ hroom)).trans (State.setPc_onlyChanges_pc _ _)).mono ?_
    rintro p ((hp | ⟨j, hp, hj⟩) | hp)
    · exact .inr (.inl hp)
    · exact .inl (hp.trans (congrArg Part.slot (Fin.ext (hj.trans hk.symm))))
    · exact .inr (.inr hp)

/-- Settles O20: the pop and the jump, or the fault of the empty stack. -/
theorem retPopsTheReturnAddress : Obligations.RetPopsTheReturnAddress := by
  intro s
  refine ⟨fun k hk => ?entry, fun hsp => ?empty⟩
  case empty => exact ⟨_, exec_ret_of_empty (congrArg Fin.val hsp), rfl, s.setFault_onlyChanges_fault _⟩
  have hentry : 0 < s.sp.val := by omega
  have htop : s.sp.val - 1 = k.val := by omega
  refine ⟨_, exec_ret_of_entry hentry, Nat.sub_add_cancel hentry, ?_, ?_⟩
  · simp [htop]
  · exact (State.pop_onlyChanges_sp (State.pop_of_entry hentry)).trans (State.setPc_onlyChanges_pc _ _)

/-- The state that a `CALL` leaves has an entry, the return address on top. -/
theorem exec_ret_after_call {s t : State} {nnn : Addr} (hroom : s.sp.val < 16) (h : exec (.call nnn) s = .next t) :
    ∃ u, exec .ret t = .next u ∧ u.pc = s.pc + 2 ∧ u.sp = s.sp ∧ u.fault = s.fault := by
  rw [exec_call_of_room nnn hroom] at h
  cases h
  exact ⟨_, exec_ret_of_entry (Nat.succ_pos s.sp.val), s.stack.getElem_set_self hroom, rfl, rfl⟩

/-- Settles O21: the frames of the two instructions, where `SP` comes back. -/
theorem callThenRetComesBack : Obligations.CallThenRetComesBack := by
  intro nnn s k hk
  have hroom : s.sp.val < 16 := hk ▸ k.isLt
  obtain ⟨t, hcall⟩ := exec_total (.call nnn) s
  obtain ⟨u, hret, hpc, hsp, hfault⟩ := exec_ret_after_call hroom hcall
  refine ⟨t, u, hcall, hret, hpc, hsp, fun p hp => ?_⟩
  obtain ⟨hnpc, hnslot⟩ := not_or.mp hp
  by_cases hpsp : p = .sp
  · exact hpsp ▸ hsp
  by_cases hpf : p = .fault
  · exact hpf ▸ hfault
  refine ((accessMatrix _ s t hcall).trans (accessMatrix _ t u hret)) p ?_
  rintro ((hp' | hp' | hp' | ⟨j, hp', hj⟩) | (hp' | hp' | hp'))
  case inl.inr.inr.inr => exact hnslot (hp'.trans (congrArg Part.slot (Fin.ext (hj.trans hk.symm))))
  all_goals contradiction

/-- Settles O24: the key is the one of the low nibble; both skips are `skipIf`, on the cell and on its negation. -/
theorem skipsOnAKey : Obligations.SkipsOnAKey := by
  intro x k s hk
  have hkey : lowNibble (s.getV x) = k := Fin.ext hk.symm
  refine ⟨⟨_, exec_skp x s, ?_, s.skipIf_onlyChanges_pc _⟩, ⟨_, exec_sknp x s, ?_, s.skipIf_onlyChanges_pc _⟩⟩
  · rw [State.skipIf_pc_toNat, hkey, State.keyPressed]
  · rw [State.skipIf_pc_toNat, hkey, State.keyPressed]
    cases s.keys[k]
    all_goals rfl

/-- Settles O48: `leastKey` finds no key, or the least one. -/
theorem waitForKey : Obligations.WaitForKey := by
  intro x s
  refine ⟨fun hnone => exec_ldVxK_of_none x ((s.leastKey_eq_none_iff).mpr hnone), fun k hk hleast => ?_⟩
  have hfound : s.leastKey = some k.val := by
    cases h : s.leastKey with
    | none => rw [(s.leastKey_eq_none_iff).mp h k] at hk; cases hk
    | some j =>
      obtain ⟨hj, hpressed, hlower⟩ := State.leastKey_eq_some h
      have hjk : ¬ j < k.val := fun hlt => Bool.false_ne_true ((hleast ⟨j, hj⟩ hlt).symm.trans hpressed)
      have hkj : ¬ k.val < j := fun hlt => Bool.false_ne_true ((hlower k.val hlt).symm.trans hk)
      rw [show j = k.val by omega]
  have hval : (BitVec.ofNat 8 k.val).toNat = k.val := Nat.mod_eq_of_lt (Nat.lt_trans k.isLt (by decide))
  exact ⟨_, exec_ldVxK_of_some x hfound, (congrArg BitVec.toNat (s.getV_setV_same x _)).trans hval, State.advance_pc_toNat _,
    (s.setV_onlyChanges_v x _).advance⟩

end Sys2Proof.Machine

namespace Sys2Proof.Machine

/-! ## Arithmetic and logic: bitwise instructions, the flag writers, `RND` and `ADD I` -/

/-! ### A result and a flag (R66) -/

theorem State.getV_setResultAndFlag_result (s : State) {x : Reg} (hx : x ≠ 15) (result flag : Byte) :
    (s.setResultAndFlag x result flag).getV x = result := by
  rw [State.getV_setResultAndFlag, if_neg hx, if_pos rfl]

theorem State.getV_setResultAndFlag_flag (s : State) (x : Reg) (result flag : Byte) :
    (s.setResultAndFlag x result flag).getV 15 = flag := by
  rw [State.getV_setResultAndFlag, if_pos rfl]

theorem State.setResultAndFlag_advance_onlyChanges (s : State) (x : Reg) (result flag : Byte) :
    OnlyChanges s (s.setResultAndFlag x result flag).advance (fun p => p = .v x ∨ p = .v 15 ∨ p = .pc) :=
  (s.setResultAndFlag_onlyChanges_v x result flag).advance.mono fun _ => or_assoc.mp

/-- What is left of a statement on an instruction that writes a result and a flag: their values. -/
theorem exec_resultAndFlag {i : Instr} {x : Reg} {s : State} {result flag : Byte} {r f : Nat}
    (h : exec i s = .next (s.setResultAndFlag x result flag).advance) (hr : result.toNat = r) (hf : flag.toNat = f) :
    ∃ t, exec i s = .next t ∧ (x ≠ 15 → (t.getV x).toNat = r) ∧ (t.getV 15).toNat = f ∧
      t.pc.toNat = (s.pc.toNat + 2) % 65536 ∧ OnlyChanges s t (fun p => p = .v x ∨ p = .v 15 ∨ p = .pc) :=
  ⟨_, h, fun hx => (congrArg BitVec.toNat (s.getV_setResultAndFlag_result hx _ _)).trans hr,
    (congrArg BitVec.toNat (s.getV_setResultAndFlag_flag x _ _)).trans hf, State.advance_pc_toNat _,
    s.setResultAndFlag_advance_onlyChanges x _ _⟩

/-! ### The flags as numbers -/

theorem flagByte_toNat (b : Bool) : (flagByte b).toNat = if b = true then 1 else 0 := by
  cases b
  all_goals rfl

theorem carryFlag_toNat (a b : Byte) : (carryFlag a b).toNat = if 255 < a.toNat + b.toNat then 1 else 0 := by
  simp only [carryFlag, flagByte_toNat, decide_eq_true_eq]

theorem notBorrowFlag_toNat (a b : Byte) : (notBorrowFlag a b).toNat = if b.toNat ≤ a.toNat then 1 else 0 := by
  simp only [notBorrowFlag, flagByte_toNat, decide_eq_true_eq]

theorem shiftedOutRight_toNat (a : Byte) : (shiftedOutRight a).toNat = a.toNat % 2 := by
  rw [shiftedOutRight, flagByte_toNat, BitVec.getLsbD, Nat.testBit_zero]
  split
  case isTrue h => have := of_decide_eq_true h; omega
  case isFalse h => have := mt decide_eq_true h; omega

theorem shiftedOutLeft_toNat (a : Byte) : (shiftedOutLeft a).toNat = a.toNat / 128 := by
  rw [shiftedOutLeft, flagByte_toNat, BitVec.getLsbD, Nat.testBit_eq_decide_div_mod_eq]
  split
  case isTrue h => have := of_decide_eq_true h; omega
  case isFalse h => have := mt decide_eq_true h; omega

/-! ### The results as numbers -/

theorem byte_sub_toNat (a b : Byte) : (a - b).toNat = (a.toNat + 256 - b.toNat) % 256 := by
  rw [BitVec.toNat_sub]
  omega

theorem byte_shiftLeft_one_toNat (a : Byte) : (a <<< 1).toNat = 2 * a.toNat % 256 := by
  rw [BitVec.toNat_shiftLeft, Nat.shiftLeft_eq]
  omega

theorem byte_ushiftRight_one_toNat (a : Byte) : (a >>> 1).toNat = a.toNat / 2 :=
  Nat.shiftRight_one a.toNat

/-! ### The obligations -/

/-- Settles O33: each is one `setV`, whose value is read bit by bit. -/
theorem bitwiseOperations : Obligations.BitwiseOperations := by
  intro x y s
  refine ⟨⟨_, exec_orReg x y s, fun b _ => ?or, State.advance_pc_toNat _, (s.setV_onlyChanges_v x _).advance⟩,
    ⟨_, exec_andReg x y s, fun b _ => ?and, State.advance_pc_toNat _, (s.setV_onlyChanges_v x _).advance⟩,
    ⟨_, exec_xorReg x y s, fun b _ => ?xor, State.advance_pc_toNat _, (s.setV_onlyChanges_v x _).advance⟩⟩
  all_goals rw [State.getV_advance, State.getV_setV_same]
  case or => rw [BitVec.getLsbD_or, Bool.or_eq_true]
  case and => rw [BitVec.getLsbD_and, Bool.and_eq_true]
  case xor => rw [BitVec.getLsbD_xor, bne_iff_ne]

/-- Settles O34: the sum modulo 256, and whether it needs a ninth bit. -/
theorem addWithCarry : Obligations.AddWithCarry := by
  intro x y s
  exact exec_resultAndFlag (exec_addReg x y s) (BitVec.toNat_add _ _) (carryFlag_toNat _ _)

/-- Settles O35: `SUBN` is `SUB` with the operands exchanged. -/
theorem subtractWithNotBorrow : Obligations.SubtractWithNotBorrow := by
  intro x y s
  exact ⟨exec_resultAndFlag (exec_subReg x y s) (byte_sub_toNat _ _) (notBorrowFlag_toNat _ _),
    exec_resultAndFlag (exec_subnReg x y s) (byte_sub_toNat _ _) (notBorrowFlag_toNat _ _)⟩

/-- Settles O36: halving with its remainder, doubling modulo 256 with the top bit. -/
theorem shiftsByOne : Obligations.ShiftsByOne := by
  intro x y s
  exact ⟨exec_resultAndFlag (exec_shr x y s) (byte_ushiftRight_one_toNat _) (shiftedOutRight_toNat _),
    exec_resultAndFlag (exec_shl x y s) (byte_shiftLeft_one_toNat _) (shiftedOutLeft_toNat _)⟩

/-- Settles O37: a conjunction with the mask, whatever the draw. -/
theorem randomByteUnderMask : Obligations.RandomByteUnderMask := by
  intro x nn s
  have hval : (s.setV x (Config.freeDraw s.draws &&& nn)).nextDraw.advance.getV x = Config.freeDraw s.draws &&& nn :=
    s.getV_setV_same x _
  refine ⟨_, exec_rnd x nn s, hval, fun b _ hb => ?mask, rfl, State.advance_pc_toNat _, ?frame⟩
  case mask => rw [hval, BitVec.getLsbD_and, hb, Bool.and_false]
  case frame =>
    exact ((s.setV_onlyChanges_v x _).trans (State.nextDraw_onlyChanges_draws _)).advance.mono fun _ hp =>
      or_assoc.mp (or_right_comm.mp hp)

/-- Settles O38: the sum of two words, one of them a byte. -/
theorem addToIndexRegister : Obligations.AddToIndexRegister := by
  intro x s
  have hsum : (s.i + zext8 (s.getV x)).toNat = (s.i.toNat + (s.getV x).toNat) % 65536 := by
    rw [BitVec.toNat_add, zext8_toNat]
  exact ⟨_, exec_addI x s, hsum, State.advance_pc_toNat _, (s.setI_onlyChanges_i _).advance⟩

end Sys2Proof.Machine

namespace Sys2Proof.Machine

/-! ## Load and store: `LD F`, the block transfers, and the fetch after a store -/

/-! ### The font (20_memory.md R24) -/

theorem glyphAddress_toNat (d : Fin 16) : (glyphAddress d).toNat = 0x050 + 5 * d.val :=
  Nat.mod_eq_of_lt (by have := d.isLt; simp only [Config.fontBase]; omega)

/-- The glyph of each of the sixteen digits stands at its address after reset. -/
theorem readBytes_glyphAddress :
    ∀ d : Fin 16, State.reset.mem.readBytes (glyphAddress d).toNat 5 = (font.drop (5 * d.val)).take 5 := by
  decide

/-- Settles O27: the address of the glyph of the low nibble. -/
theorem fontAddress : Obligations.FontAddress := by
  intro x s
  exact ⟨_, exec_ldF x s, glyphAddress_toNat _, State.advance_pc_toNat _, (s.setI_onlyChanges_i _).advance,
    readBytes_glyphAddress (lowNibble (s.getV x))⟩

/-! ### The block transfers, by the answer of their guard -/

theorem exec_ldMiVx_of_writeGuard_none {s : State} (x : Reg) (h : writeGuard s.i (x.val + 1) = none) :
    exec (.ldMiVx x) s = .next (s.setMem (s.mem.writeBytes (s.dataAddress 0) (s.regBlock x))).advance := by
  rw [exec_ldMiVx, h, State.guarded_none]

theorem exec_ldMiVx_of_writeGuard_some {s : State} {f : Fault} (x : Reg) (h : writeGuard s.i (x.val + 1) = some f) :
    exec (.ldMiVx x) s = .next (s.setFault f) := by
  rw [exec_ldMiVx, h, State.guarded_some]

theorem exec_ldVxMi_of_readGuard_none {s : State} (x : Reg) (h : readGuard s.i (x.val + 1) = none) :
    exec (.ldVxMi x) s = .next (s.setRegs (loadBlock s.v 0 (s.mem.readBytes (s.dataAddress 0) (x.val + 1)))).advance := by
  rw [exec_ldVxMi, h, State.guarded_none]

theorem exec_ldVxMi_of_readGuard_some {s : State} {f : Fault} (x : Reg) (h : readGuard s.i (x.val + 1) = some f) :
    exec (.ldVxMi x) s = .next (s.setFault f) := by
  rw [exec_ldVxMi, h, State.guarded_some]

/-- Settles O29: byte `r` of the block is `V[r]`, and the store writes the block's bytes only. -/
theorem registersStored : Obligations.RegistersStored := by
  intro x s hwf hlow hhigh
  have hguard : writeGuard s.i (x.val + 1) = none := (writeGuard_eq_none_iff _ _).mpr ⟨hlow, by omega⟩
  refine ⟨_, exec_ldMiVx_of_writeGuard_none x hguard, fun r hr => ?bytes, State.advance_pc_toNat _, ?frame⟩
  case bytes =>
    have hlt : r.val < (s.regBlock x).length := by rw [State.regBlock_length]; exact Nat.lt_succ_of_le hr
    exact (State.read_storeBytes hwf (s.regBlock x) (by rw [State.regBlock_length]; omega) r.val hlt).trans
      (s.regBlock_get x r hr)
  case frame =>
    have hframe := (s.storeBytes_onlyChanges_stored (s.regBlock x)).advance_writes
    rwa [State.regBlock_length] at hframe

/-- Settles O30: byte `r` read is the byte at `I + r`, and the load writes the registers with a byte only. -/
theorem registersLoaded : Obligations.RegistersLoaded := by
  intro x s hhigh
  have hguard : readGuard s.i (x.val + 1) = none := (readGuard_eq_none_iff _ _).mpr (.inr (by omega))
  refine ⟨_, exec_ldVxMi_of_readGuard_none x hguard, fun r hr => ?value, State.advance_pc_toNat _, ?frame⟩
  case value =>
    have hlt : r.val < (s.mem.readBytes (s.dataAddress 0) (x.val + 1)).length := by
      rw [Memory.readBytes_length]; exact Nat.lt_succ_of_le hr
    exact (s.getV_setRegs_loadBlock_of_lt _ r hlt).trans (Memory.readBytes_get _ _ _ _ hlt)
  case frame =>
    have hframe := (s.loadBlock_onlyChanges_v (s.mem.readBytes (s.dataAddress 0) (x.val + 1))).advance_writes
    rw [Memory.readBytes_length] at hframe
    exact hframe.mono fun p => .imp_right fun ⟨r, hp, hr⟩ => ⟨r, hp, Nat.le_of_lt_succ hr⟩

/-! ### Data accesses that are not all allowed -/

theorem exec_drw_of_readGuard_some {s : State} {n : Nibble} {f : Fault} (x y : Reg) (h : readGuard s.i n.toNat = some f) :
    exec (.drw x y n) s = .next (s.setFault f) := by
  rw [exec_drw, h, State.guarded_some]

/-- Settles O13: the guard answers the fault with the named address, and a fault taken changes `FAULT` only. -/
theorem dataAddressFaults : Obligations.DataAddressFaults := by
  refine ⟨fun x y n s hn hhigh => ?draw, fun x s hhigh => ?load, fun x s hlow => ?storeLow, fun x s hhigh => ?storeHigh⟩
  case draw =>
    have hguard := readGuard_fault (a := s.i) hn (by omega)
    exact ⟨_, _, exec_drw_of_readGuard_some x y hguard, rfl, firstAbsent_toNat _, s.setFault_onlyChanges_fault _⟩
  case load =>
    have hguard := readGuard_fault (a := s.i) (Nat.succ_pos x.val) (by omega)
    exact ⟨_, _, exec_ldVxMi_of_readGuard_some x hguard, rfl, firstAbsent_toNat _, s.setFault_onlyChanges_fault _⟩
  case storeLow =>
    exact ⟨_, exec_ldMiVx_of_writeGuard_some x (writeGuard_reserved _ hlow), rfl, s.setFault_onlyChanges_fault _⟩
  case storeHigh =>
    have hguard := writeGuard_absent (a := s.i) (n := x.val + 1) (by omega) (by omega)
    exact ⟨_, _, exec_ldMiVx_of_writeGuard_some x hguard, rfl, firstAbsent_toNat _, s.setFault_onlyChanges_fault _⟩

/-! ### The fetch after a store (R35) -/

/-- A store through `I` leaves the memory that the rule says: its bytes from `I` on, every other byte as before. -/
theorem State.read_storeBytes_eq {s : State} {bs : List Byte} {b : Nat → Byte} (hwf : s.mem.wf = true)
    (hfit : s.i.toNat + bs.length ≤ 0x1000) (hin : ∀ (k : Nat) (hk : k < bs.length), b (s.dataAddress k) = bs[k])
    (hout : ∀ a, ¬ StoredByte s bs.length a → b a = s.mem.read a) (a : Nat) :
    (s.mem.writeBytes (s.dataAddress 0) bs).read a = b a := by
  by_cases ha : StoredByte s bs.length a
  · obtain ⟨hge, hlt⟩ := ha
    obtain ⟨k, rfl⟩ : ∃ k, a = s.dataAddress k := ⟨a - s.dataAddress 0, (Nat.add_sub_cancel' hge).symm⟩
    have hk : k < bs.length := Nat.lt_of_add_lt_add_left hlt
    exact (State.read_storeBytes hwf bs hfit k hk).trans (hin k hk).symm
  · rw [hout a ha]
    exact (s.storeBytes_onlyChanges_stored bs) (.byte a) fun ⟨_, hp, hst⟩ => ha (Part.byte.inj hp ▸ hst)

/-- The word fetched, from the bytes of memory. -/
theorem State.fetchWord_toNat_of_read {u : State} {b : Nat → Byte} (h : ∀ a, u.mem.read a = b a) :
    u.fetchWord.toNat = (b u.pc.toNat).toNat * 256 + (b (u.pc.toNat + 1)).toNat := by
  rw [State.fetchWord, joinBytes_toNat, h, h]

/-- The next fetch, when `I` points behind the store. -/
theorem State.fetchWord_toNat_of_store {s u : State} {b : Nat → Byte} (h : ∀ a, u.mem.read a = b a) (hpc : u.pc = s.i) :
    u.fetchWord.toNat = (b (s.dataAddress 0)).toNat * 256 + (b (s.dataAddress 1)).toNat := by
  rw [State.fetchWord_toNat_of_read h, hpc]
  rfl

/-- Settles O31: memory reads as `b` after the store, so every fetch from it does. -/
theorem storeIsSeenByTheNextFetch : Obligations.StoreIsSeenByTheNextFetch := by
  intro x s b hwf hlow
  refine ⟨fun hhigh hregs hout => ?registers, fun hhigh hhundreds htens hones hout => ?digits⟩
  case registers =>
    have hguard : writeGuard s.i (x.val + 1) = none := (writeGuard_eq_none_iff _ _).mpr ⟨hlow, by omega⟩
    have hin : ∀ (k : Nat) (hk : k < (s.regBlock x).length), b (s.dataAddress k) = (s.regBlock x)[k] := by
      intro k hk
      rw [State.regBlock_length] at hk
      have hkx : (⟨k, by omega⟩ : Reg) ≤ x := Nat.le_of_lt_succ hk
      exact (hregs ⟨k, _⟩ hkx).trans (s.regBlock_get x _ hkx).symm
    rw [← s.regBlock_length x] at hout
    have hread := State.read_storeBytes_eq hwf (by rw [State.regBlock_length]; omega) hin hout
    refine ⟨_, exec_ldMiVx_of_writeGuard_none x hguard, fun u hu _ => ?_, fun hx hi => ?_⟩
    · exact State.fetchWord_toNat_of_read fun a => hu ▸ hread a
    · have h0 : b (s.dataAddress 0) = s.getV 0 := hregs 0 (Fin.zero_le x)
      have h1 : b (s.dataAddress 1) = s.getV 1 := hregs 1 hx
      rw [State.fetchWord_toNat_of_store (s := s) hread hi.symm, h0, h1]
  case digits =>
    have hguard : writeGuard s.i 3 = none := (writeGuard_eq_none_iff _ _).mpr ⟨hlow, by omega⟩
    have hin : ∀ (k : Nat) (hk : k < (bcdDigits (s.getV x)).length), b (s.dataAddress k) = (bcdDigits (s.getV x))[k] := by
      intro k hk
      apply BitVec.eq_of_toNat_eq
      match k, hk with
      | 0, _ => exact hhundreds.trans (bcdDigits_hundreds _).symm
      | 1, _ => exact htens.trans (bcdDigits_tens _).symm
      | 2, _ => exact hones.trans (bcdDigits_ones _).symm
    have hread := State.read_storeBytes_eq hwf (by rw [bcdDigits_length]; omega) hin hout
    refine ⟨_, exec_ldB_of_writeGuard_none x hguard, fun u hu _ => ?_, fun hi => ?_⟩
    · exact State.fetchWord_toNat_of_read fun a => hu ▸ hread a
    · rw [State.fetchWord_toNat_of_store (s := s) hread hi.symm, hhundreds, htens]

end Sys2Proof.Machine

namespace Sys2Proof.Machine

/-! ## Reset, `LOAD`, and the parts of the state -/

/-! ### The reset contents of memory -/

theorem font_length : font.length = 80 := rfl

/-- Below and above the font the reset contents are zero (decisions D6, D31). -/
theorem Memory.resetByte_outside_font {a : Nat} (h : a < 0x050 ∨ 0x0A0 ≤ a) : Memory.resetByte a = 0x00 := by
  rw [Memory.resetByte, Config.fontBase]
  split
  case isFalse => rfl
  case isTrue hge =>
    have hlen : font.length ≤ a - 0x050 := by rw [font_length]; omega
    rw [List.getElem?_eq_none hlen]
    rfl

/-- Settles O50: the registers are written out, the reserved bytes are the font and zeros around it. -/
theorem resetValues : Obligations.ResetValues := by
  refine ⟨fun r => ?v, rfl, rfl, rfl, fun k => ?stack, rfl, rfl, fun y x => ?fb, fun k => ?keys, rfl, rfl, rfl,
    fun a ha => Memory.resetByte_outside_font (ha.imp_right And.left), ?font⟩
  case v => simp [State.reset, State.getV]
  case stack => simp [State.reset]
  case fb => simp [State.reset]
  case keys => simp [State.reset]
  case font => decide

/-! ### The two resets -/

/-- R108: the model's own two fields apart, the machine is the reset one. -/
theorem State.initMachine_onlyChanges (s : State) :
    OnlyChanges State.reset s.initMachine (fun p => p = .draws ∨ p = .schedule) := by
  intro p hp
  obtain ⟨hdraws, hschedule⟩ := not_or.mp hp
  cases p
  case draws => exact absurd rfl hdraws
  case schedule => exact absurd rfl hschedule
  all_goals rfl

/-- Settles O51: the event answers the reset state but for the model's own two fields. -/
theorem initializeGivesTheResetState : Obligations.InitializeGivesTheResetState := by
  intro s he
  exact ⟨_, step_of_init he, fun p hdraws hschedule => State.initMachine_onlyChanges _ p (not_or.mpr ⟨hdraws, hschedule⟩),
    rfl, rfl⟩

/-- A store of bytes given by their address changes no byte but those it writes. -/
theorem State.setMem_writeBytes_onlyChanges (s : State) (a : Nat) (bs : List Byte) :
    OnlyChanges s (s.setMem (s.mem.writeBytes a bs)) (fun p => ∃ e, p = .byte e ∧ a ≤ e) := by
  intro p hp
  cases p
  case byte e =>
    have hlt : e < a := Nat.lt_of_not_le fun hle => hp ⟨e, rfl, hle⟩
    exact Memory.read_writeBytes_outside _ _ _ _ (.inl hlt)
  all_goals rfl

/-- Settles O52: a program that fits is stored over the reset memory; one that does not fit is dropped. -/
theorem loadInstallsTheProgram : Obligations.LoadInstallsTheProgram := by
  intro s bytes he
  refine ⟨fun hlen => ⟨loadResult_ok hlen, ?_⟩, fun hlen => ⟨loadResult_tooLarge hlen, ?_⟩⟩
  · have hstep := step_of_load he
    rw [State.load_fits hlen] at hstep
    refine ⟨_, hstep, fun k hk => ?program, fun a hge _ => ?rest, fun p hdraws hschedule hbyte => ?frame, rfl, rfl⟩
    case program => exact Memory.read_writeBytes_inside (m := []) rfl bytes (by omega) k hk
    case rest =>
      exact (Memory.read_writeBytes_outside _ _ _ _ (.inr hge)).trans (Memory.resetByte_outside_font (.inr (by omega)))
    case frame =>
      refine ((State.initMachine_onlyChanges _).trans (State.setMem_writeBytes_onlyChanges _ 0x200 bytes)) p ?_
      rintro ((hp | hp) | ⟨a, hp, hge⟩)
      · exact hdraws hp
      · exact hschedule hp
      · exact absurd (hbyte a hp) (Nat.not_lt.mpr hge)
  · rw [step_of_load he, State.load_rejected hlen]

/-! ### A canonical memory is what it reads as -/

theorem Memory.read_head (a : Nat) (b : Byte) (m : Memory) : Memory.read ((a, b) :: m) a = b := if_pos rfl

theorem Memory.read_tail {a e : Nat} (h : a ≠ e) (b : Byte) (m : Memory) :
    Memory.read ((a, b) :: m) e = m.read e := if_neg h

/-- The first byte that a canonical memory lists is told from the reset contents by reading it. -/
theorem Memory.not_wfFrom_cons_of_read {lo a : Nat} {b : Byte} {m : Memory}
    (h : Memory.read ((a, b) :: m) a = Memory.resetByte a) : ¬ Memory.wfFrom lo ((a, b) :: m) = true := by
  intro hwf
  obtain ⟨-, -, hb, -⟩ := (Memory.wfFrom_cons _ _ _ _).mp hwf
  exact hb ((Memory.read_head a b m).symm.trans h)

theorem Memory.eq_of_read_eq {lo : Nat} {m n : Memory} (hm : Memory.wfFrom lo m = true) (hn : Memory.wfFrom lo n = true)
    (h : ∀ a, m.read a = n.read a) : m = n := by
  induction m generalizing lo n with
  | nil =>
    cases n with
    | nil => rfl
    | cons d n => exact absurd hn (Memory.not_wfFrom_cons_of_read (h d.1).symm)
  | cons c m ih =>
    cases n with
    | nil => exact absurd hm (Memory.not_wfFrom_cons_of_read (h c.1))
    | cons d n =>
      obtain ⟨a, b⟩ := c
      obtain ⟨e, f⟩ := d
      obtain ⟨-, hma, hmb, hmrest⟩ := (Memory.wfFrom_cons _ _ _ _).mp hm
      obtain ⟨-, hna, hnf, hnrest⟩ := (Memory.wfFrom_cons _ _ _ _).mp hn
      have hm' := (Memory.wfFrom_cons a a b m).mpr ⟨Nat.le_refl a, hma, hmb, hmrest⟩
      have hn' := (Memory.wfFrom_cons e e f n).mpr ⟨Nat.le_refl e, hna, hnf, hnrest⟩
      rcases Nat.lt_trichotomy a e with hlt | rfl | hlt
      · exact absurd hm (Memory.not_wfFrom_cons_of_read ((h a).trans (Memory.read_below hn' hlt)))
      · have hhead : b = f := by rw [← Memory.read_head a b m, h a, Memory.read_head]
        have htail : ∀ k, Memory.read m k = Memory.read n k := by
          intro k
          by_cases hk : a = k
          · rw [Memory.read_below hmrest (by omega), Memory.read_below hnrest (by omega)]
          · rw [← Memory.read_tail hk b m, h k, Memory.read_tail hk]
        rw [hhead, ih hmrest hnrest htail]
      · exact absurd hn (Memory.not_wfFrom_cons_of_read ((h e).symm.trans (Memory.read_below hm' hlt)))

/-- Settles O59: each field is read off from its parts, memory by its canonical form. -/
theorem partsAreTheWholeState : Obligations.PartsAreTheWholeState := by
  intro s t hs ht h
  have hv : t.v = s.v := Vector.ext fun r hr => h (.v ⟨r, hr⟩)
  have hstack : t.stack = s.stack := Vector.ext fun k hk => h (.slot ⟨k, hk⟩)
  have hfb : t.fb = s.fb := FrameBuffer.ext_pixel fun y x => h (.pixel y x)
  have hkeys : t.keys = s.keys := Vector.ext fun k hk => h (.key ⟨k, hk⟩)
  have hmem : t.mem = s.mem := Memory.eq_of_read_eq ht hs fun a => h (.byte a)
  obtain ⟨⟩ := s
  obtain ⟨⟩ := t
  congr 1
  exacts [h .i, h .pc, h .sp, h .dt, h .st, h .fault, h .ready, h .draws, h .schedule]

/-! ### Timers -/

/-- Settles O46: each tick takes one off, with the floor at 0. -/
theorem timerReachesZeroAfterItsTicks : Obligations.TimerReachesZeroAfterItsTicks := by
  intro n s
  induction n with
  | zero => exact ⟨rfl, rfl⟩
  | succ n ih =>
    obtain ⟨hdt, hst⟩ := ih
    rw [Function.iterate_succ_apply', State.tick_dt, State.tick_st, countDown_toNat_eq_sub, countDown_toNat_eq_sub, hdt, hst,
      Nat.sub_sub, Nat.sub_sub]
    exact ⟨rfl, rfl⟩

end Sys2Proof.Machine

namespace Sys2Proof.Machine

/-! ## Outputs and the outcome of a `STEP` -/

/-! ### The flat framebuffer -/

/-- Rows of equal length, put one after the other: element `x` of row `y`. -/
theorem getElem?_flatten_of_length {α : Type} {rows : List (List α)} {n : Nat} (hlen : ∀ row ∈ rows, row.length = n)
    {y x : Nat} (hx : x < n) (hy : y < rows.length) : rows.flatten[y * n + x]? = rows[y][x]? := by
  induction rows generalizing y with
  | nil => exact absurd hy (Nat.not_lt_zero y)
  | cons row rows ih =>
    obtain ⟨hrow, hrows⟩ := List.forall_mem_cons.mp hlen
    rw [List.flatten_cons]
    cases y with
    | zero => rw [Nat.zero_mul, Nat.zero_add, List.getElem?_append_left (hrow ▸ hx)]; rfl
    | succ y =>
      have hidx : (y + 1) * n + x - row.length = y * n + x := by rw [hrow, Nat.succ_mul]; omega
      rw [List.getElem?_append_right (by rw [hrow, Nat.succ_mul]; omega), hidx, ih hrows (Nat.lt_of_succ_lt_succ hy)]
      rfl

/-- The rows of the framebuffer. -/
def FrameBuffer.rows (f : FrameBuffer) : List (List Bool) := f.toList.map Vector.toList

theorem FrameBuffer.length_of_mem_rows {f : FrameBuffer} : ∀ row ∈ f.rows, row.length = 64 := by
  intro row hrow
  obtain ⟨r, -, rfl⟩ := List.mem_map.mp hrow
  exact Vector.length_toList

theorem State.pixels_length (s : State) : s.pixels.length = 2048 := by
  have hsum : (FrameBuffer.rows s.fb).map List.length = List.replicate 32 64 := by
    refine List.eq_replicate_iff.mpr ⟨by simp [FrameBuffer.rows], fun n hn => ?_⟩
    obtain ⟨row, hrow, rfl⟩ := List.mem_map.mp hn
    exact FrameBuffer.length_of_mem_rows row hrow
  exact List.length_flatten.trans (congrArg List.sum hsum)

theorem State.getElem?_pixels (s : State) (x : Fin 64) (y : Fin 32) :
    s.pixels[y.val * 64 + x.val]? = some s.fb[y][x] := by
  have hrow : y.val < (FrameBuffer.rows s.fb).length := by simp [FrameBuffer.rows]
  refine (getElem?_flatten_of_length FrameBuffer.length_of_mem_rows x.isLt hrow).trans ?_
  simp [FrameBuffer.rows]

/-! ### `tone` -/

/-- A `TICK` after which the tone is another one has brought `ST` to 0. -/
theorem State.tick_st_eq_zero_of_tone_ne {s : State} (h : s.tick.tone ≠ s.tone) : s.tick.st = 0 := by
  by_contra hst
  have hs : s.st ≠ 0 := fun h0 => hst (by rw [State.tick_st, h0]; rfl)
  exact h (((State.tone_iff _).mpr hst).trans ((State.tone_iff _).mpr hs).symm)

theorem State.st_ne_of_tone_ne {s t : State} (h : t.tone ≠ s.tone) : t.st ≠ s.st :=
  mt State.tone_congr h

/-- Settles O43: the framebuffer is laid out row by row; the codes follow the record; `tone` follows `ST`. -/
theorem outputsAsTheHostReadsThem : Obligations.OutputsAsTheHostReadsThem := by
  refine ⟨fun s x y => ⟨s.pixels_length, s.getElem?_pixels x y, s.pixelOut_eq x y⟩, fun s => ?codes, fun bytes => ?load,
    State.tone_iff, fun s t h htone => ?tone⟩
  case codes =>
    exact ⟨State.faultCode_of_none, fun _ _ => State.faultCode_of_some, fun _ _ => State.faultCode_of_some,
      fun _ => State.faultCode_of_some, fun _ => State.faultCode_of_some⟩
  case load =>
    split
    case isTrue hlen => rw [loadResult_tooLarge hlen]; rfl
    case isFalse hlen => rw [loadResult_ok (Nat.le_of_not_lt hlen)]; rfl
  case tone =>
    rcases step_cases h with ⟨he, -⟩ | ⟨bytes, he, rfl⟩ | ⟨he, -⟩ | ⟨he, -, rfl⟩ | ⟨k, b, -, -, rfl⟩
    · exact .inr (.inr (.inl he))
    · refine .inr (.inr (.inr ⟨bytes, he, Nat.le_of_not_lt fun hlen => htone ?_⟩))
      rw [State.load_rejected hlen]
      rfl
    · obtain ⟨i, hf, hw⟩ := exists_writes_of_changed (p := .st) he h (State.st_ne_of_tone_ne htone) nofun
      obtain ⟨x, rfl⟩ := hw.st_writer
      exact .inl ⟨he, x, hf⟩
    · exact .inr (.inl ⟨he, State.tick_st_eq_zero_of_tone_ne (s := s.popEvent) htone⟩)
    · exact absurd rfl htone

/-! ### Stalled (45_input.md R88) -/

/-- R88's pattern `FX0A` is the words that decode to `LD Vx, K`. -/
theorem exists_decodeWord_ldVxK_iff (w : Word) : (∃ x, decodeWord w = .ok (.ldVxK x)) ↔ w &&& 0xF0FF = 0xF00A := by
  constructor
  · rintro ⟨x, hx⟩
    rw [← encode_of_decodeWord_ok hx]
    exact (Laws.TableRow.packXNN_row_F0FF 0xF x 0x0A).trans (by decide)
  · intro h
    have hfields : packXNN (fieldT w) 0 (fieldNN w) = packXNN 0xF 0 0x0A := by
      rw [← and_mask_F0FF, h]
      decide
    have hT : fieldT w = 0xF := by simpa using congrArg fieldT hfields
    have hNN : fieldNN w = 0x0A := by simpa using congrArg fieldNN hfields
    have hword : encode (.ldVxK (fieldX w)) = w := packXNN_of_fieldT_fieldNN (congrArg BitVec.toNat hT) hNN
    exact ⟨fieldX w, (congrArg decodeWord hword).symm.trans (decodeWord_encode _)⟩

theorem State.fetch_eq_ldVxK_iff (s : State) :
    (∃ x, s.fetch = .ok (.ldVxK x)) ↔ fetchGuard s.pc = none ∧ s.fetchWord &&& 0xF0FF = 0xF00A := by
  simp only [State.fetch_eq_ok_iff, exists_and_left, exists_decodeWord_ldVxK_iff]

theorem State.noKey_iff (s : State) : s.keys.toList.all (· == false) = true ↔ ∀ j : Key, s.keys[j] = false := by
  rw [← s.leastKey_eq_none_iff, State.leastKey, List.findIdx?_eq_none_iff, List.all_eq_true]
  simp only [beq_iff_eq, id_eq]

theorem State.stalled_iff (s : State) :
    s.stalled = true ↔ s.fault = none ∧ (∃ x, s.fetch = .ok (.ldVxK x)) ∧ ∀ j : Key, s.keys[j] = false := by
  rw [s.fetch_eq_ldVxK_iff, ← s.noKey_iff, State.stalled]
  simp only [Bool.and_eq_true, Option.isNone_iff_eq_none, beq_iff_eq, and_assoc]

/-- R87: a stalled machine waits. -/
theorem stepEvent_of_stalled {s : State} (h : s.stalled = true) : stepEvent s = .next s := by
  obtain ⟨hs, ⟨x, hf⟩, hkeys⟩ := s.stalled_iff.mp h
  rw [stepEvent_of_fetch_ok hs hf, exec_ldVxK_of_none x (s.leastKey_eq_none_iff.mpr hkeys)]

/-! ### The result of a `STEP` (R47 step 6) -/

theorem State.stepResult_of_fault {s t : State} {f : Fault} (hr : s.ready = true) (hstep : stepEvent s = .next t)
    (hf : t.fault = some f) : s.stepResult = some (.fault f) := by
  simp only [State.stepResult, onceReset_ready hr, hstep, hf]

theorem State.stepResult_of_no_fault {s t : State} (hr : s.ready = true) (hstep : stepEvent s = .next t)
    (hf : t.fault = none) : s.stepResult = if s.stalled = true then some .stalled else some .ok := by
  simp only [State.stepResult, onceReset_ready hr, hstep, hf]

theorem State.stepResult_of_stalled {s : State} (hr : s.ready = true) (h : s.stalled = true) :
    s.stepResult = some .stalled := by
  rw [State.stepResult_of_no_fault hr (stepEvent_of_stalled h) (s.stalled_iff.mp h).1, if_pos h]

theorem State.stalled_of_stepResult {s : State} (hr : s.ready = true) (h : s.stepResult = some .stalled) :
    s.stalled = true := by
  obtain ⟨t, hstep⟩ := stepEvent_total s
  by_contra hns
  cases hf : t.fault with
  | some f => cases (State.stepResult_of_fault hr hstep hf).symm.trans h
  | none => rw [State.stepResult_of_no_fault hr hstep hf, if_neg hns] at h; cases h

/-- Whether the event is still on the schedule or not, a `STEP` leaves the same `FAULT`. -/
theorem exists_stepEvent_fault_eq {s t : State} (h : stepEvent s = .next t ∨ (s.nextEvent = .step ∧ step s = .next t)) :
    ∃ u, stepEvent s = .next u ∧ u.fault = t.fault := by
  rcases h with h | ⟨he, h⟩
  · exact ⟨t, h, rfl⟩
  · obtain ⟨u, hu⟩ := stepEvent_total s
    cases (stepEvent_of_step he h).symm.trans (stepEvent_popEvent hu)
    exact ⟨u, hu, rfl⟩

/-- Settles O49: the result is read off from the state the `STEP` leaves; a stalled machine is left as it was. -/
theorem stepOutcome : Obligations.StepOutcome := by
  intro s
  refine ⟨s.stalled_iff, fun hr h he => ?stay, fun hr => ⟨State.stalled_of_stepResult hr, State.stepResult_of_stalled hr⟩,
    fun t hr h => ?outcome, fun hr => ?some, fun hr => ?none⟩
  case stay => exact (step_of_step he hr).trans (stepEvent_of_stalled (s := s.popEvent) h)
  case outcome =>
    obtain ⟨u, hu, hfault⟩ := exists_stepEvent_fault_eq h
    refine ⟨fun f hf => State.stepResult_of_fault hr hu (hfault.trans hf), fun hf hns => ?_⟩
    rw [State.stepResult_of_no_fault hr hu (hfault.trans hf), hns]
    rfl
  case some =>
    obtain ⟨t, hstep⟩ := stepEvent_total s
    cases hf : t.fault with
    | some f => exact ⟨_, State.stepResult_of_fault hr hstep hf⟩
    | none => rw [State.stepResult_of_no_fault hr hstep hf, ← apply_ite some]; exact ⟨_, rfl⟩
  case none => simp only [State.stepResult, onceReset, hr, Bool.false_eq_true, if_false]

end Sys2Proof.Machine

namespace Sys2Proof.Machine

/-! ## Display: `DRW`

The blitter's laws speak of hits of a list of rows; `SpriteCovers` is a hit of the sprite at `I`. -/

/-! ### Hits and covered pixels -/

/-- Hits are taken round the edges of the screen. -/
theorem SpriteHits.mod_iff (bs : List Byte) (x y px py : Nat) :
    SpriteHits bs x y (px % 64) (py % 32) ↔ SpriteHits bs x y px py := by
  simp only [SpriteHits, RowHits, Nat.mod_mod]

theorem FrameBuffer.pixel_mod (f : FrameBuffer) (px py : Nat) :
    FrameBuffer.pixel f (px % 64) (py % 32) = FrameBuffer.pixel f px py := by
  simp only [FrameBuffer.pixel, Nat.mod_mod]

@[simp] theorem State.spriteRows_length (s : State) (n : Nibble) : (s.spriteRows n).length = n.toNat :=
  Memory.readBytes_length _ _ _

theorem State.spriteRows_get (s : State) (n : Nibble) (k : Nat) (hk : k < (s.spriteRows n).length) :
    (s.spriteRows n)[k] = s.mem.read (s.i.toNat + k) :=
  Memory.readBytes_get _ _ _ _ hk

theorem spriteCovers_iff_spriteHits (s : State) (x y : Reg) (n : Nibble) (px : Fin 64) (py : Fin 32) :
    SpriteCovers s x y n px py ↔ SpriteHits (s.spriteRows n) (startColumn (s.getV x)) (startRow (s.getV y)) px.val py.val := by
  have hpx : px.val % 64 = px.val := Nat.mod_eq_of_lt px.isLt
  have hpy : py.val % 32 = py.val := Nat.mod_eq_of_lt py.isLt
  constructor
  · rintro ⟨k, c, hk, hc, hy, hx, hbit⟩
    have hlen : k < (s.spriteRows n).length := by rwa [State.spriteRows_length]
    refine ⟨k, hlen, c, Nat.zero_le c, by omega, ?_, hx.symm.trans hpx.symm, hy.symm.trans hpy.symm⟩
    rw [s.spriteRows_get n k hlen]
    exact hbit
  · rintro ⟨k, hlen, c, -, hc, hbit, hx, hy⟩
    rw [s.spriteRows_get n k hlen] at hbit
    rw [State.spriteRows_length] at hlen
    exact ⟨k, c, hlen, by omega, (hy.trans hpy).symm, (hx.trans hpx).symm, hbit⟩

/-! ### The whole drawing -/

theorem State.spriteRows_length_le (s : State) (n : Nibble) : (s.spriteRows n).length ≤ 32 := by
  rw [State.spriteRows_length]
  have := n.isLt
  omega

theorem State.drawn_of_covered {s : State} {x y : Reg} {n : Nibble} {px : Fin 64} {py : Fin 32}
    (h : SpriteCovers s x y n px py) : (s.drawn x y n).1[py][px] = !s.fb[py][px] := by
  rw [← FrameBuffer.pixel_fin, ← FrameBuffer.pixel_fin]
  exact (drawSprite_pixel _ _ _ _ _ _ (s.spriteRows_length_le n)).1 ((spriteCovers_iff_spriteHits ..).mp h)

theorem State.drawn_of_not_covered {s : State} {x y : Reg} {n : Nibble} {px : Fin 64} {py : Fin 32}
    (h : ¬ SpriteCovers s x y n px py) : (s.drawn x y n).1[py][px] = s.fb[py][px] := by
  rw [← FrameBuffer.pixel_fin, ← FrameBuffer.pixel_fin]
  exact (drawSprite_pixel _ _ _ _ _ _ (s.spriteRows_length_le n)).2 (mt (spriteCovers_iff_spriteHits ..).mpr h)

/-- The drawing collides exactly when a covered pixel was 1. -/
theorem State.drawn_collision_iff (s : State) (x y : Reg) (n : Nibble) :
    (s.drawn x y n).2 = true ↔ ∃ px py, SpriteCovers s x y n px py ∧ s.fb[py][px] = true := by
  refine (drawSprite_collision _ _ _ _ (s.spriteRows_length_le n)).trans ⟨?_, ?_⟩
  · rintro (h | ⟨px, py, hits, hp⟩)
    · cases h
    · refine ⟨⟨px % 64, Nat.mod_lt _ (by decide)⟩, ⟨py % 32, Nat.mod_lt _ (by decide)⟩, ?_, ?_⟩
      · rw [spriteCovers_iff_spriteHits]
        exact (SpriteHits.mod_iff ..).mpr hits
      · rw [← FrameBuffer.pixel_fin]
        exact (FrameBuffer.pixel_mod ..).trans hp
  · rintro ⟨px, py, hcov, hp⟩
    rw [← FrameBuffer.pixel_fin] at hp
    exact .inr ⟨px.val, py.val, (spriteCovers_iff_spriteHits ..).mp hcov, hp⟩

/-- The state after a `DRW` that takes no fault. -/
def State.afterDraw (s : State) (x y : Reg) (n : Nibble) : State :=
  ((s.setFb (s.drawn x y n).1).setV 15 (flagByte (s.drawn x y n).2)).advance

theorem exec_drw_of_fits {s : State} (x y : Reg) {n : Nibble} (h : n.toNat = 0 ∨ s.i.toNat + n.toNat - 1 ≤ 0xFFF) :
    exec (.drw x y n) s = .next (s.afterDraw x y n) := by
  have hguard : readGuard s.i n.toNat = none := (readGuard_eq_none_iff _ _).mpr (h.imp_right fun h => by omega)
  rw [exec_drw, hguard, State.guarded_none, State.afterDraw]

@[simp] theorem State.afterDraw_fb (s : State) (x y : Reg) (n : Nibble) : (s.afterDraw x y n).fb = (s.drawn x y n).1 := rfl

@[simp] theorem State.afterDraw_mem (s : State) (x y : Reg) (n : Nibble) : (s.afterDraw x y n).mem = s.mem := rfl

@[simp] theorem State.afterDraw_i (s : State) (x y : Reg) (n : Nibble) : (s.afterDraw x y n).i = s.i := rfl

theorem State.afterDraw_flag (s : State) (x y : Reg) (n : Nibble) :
    (s.afterDraw x y n).getV 15 = flagByte (s.drawn x y n).2 :=
  State.getV_setV_same _ 15 _

theorem State.afterDraw_getV_other (s : State) (x y : Reg) (n : Nibble) {r : Reg} (hr : r ≠ 15) :
    (s.afterDraw x y n).getV r = s.getV r :=
  State.getV_setV_other _ 15 r _ hr

theorem flagByte_eq_one_iff (b : Bool) : flagByte b = 1 ↔ b = true := by
  cases b
  all_goals decide

theorem State.afterDraw_flag_eq_one_iff (s : State) (x y : Reg) (n : Nibble) :
    (s.afterDraw x y n).getV 15 = 1 ↔ ∃ px py, SpriteCovers s x y n px py ∧ s.fb[py][px] = true := by
  rw [State.afterDraw_flag, flagByte_eq_one_iff, State.drawn_collision_iff]

theorem State.afterDraw_onlyChanges (s : State) (x y : Reg) (n : Nibble) :
    OnlyChanges s (s.afterDraw x y n) (fun p => p = .v 15 ∨ p = .pc ∨ ∃ y x, p = .pixel y x) := by
  refine ((s.setFb_onlyChanges_pixels _).trans (State.setV_onlyChanges_v _ 15 _)).advance.mono ?_
  rintro p ((hp | hp) | hp)
  exacts [.inr (.inr hp), .inl hp, .inr (.inl hp)]

/-! ### The obligations -/

/-- Settles O40: the laws of the blitter, for the sprite at `I`. -/
theorem drawInvertsTheCoveredPixels : Obligations.DrawInvertsTheCoveredPixels := by
  intro x y n s hfits
  refine ⟨_, exec_drw_of_fits x y hfits, fun py px => State.drawn_of_covered, fun py px => State.drawn_of_not_covered,
    (s.afterDraw_flag_eq_one_iff x y n).mpr, fun hnone => ?clear, State.advance_pc_toNat _, s.afterDraw_onlyChanges x y n⟩
  case clear =>
    have hcol : (s.drawn x y n).2 = false := Bool.eq_false_iff.mpr (mt (s.drawn_collision_iff x y n).mp hnone)
    rw [State.afterDraw_flag, hcol]
    rfl

/-- The second draw covers the pixels that the first covered: its coordinates are not in `VF`, its bytes not changed. -/
theorem spriteCovers_afterDraw_iff {s : State} {x y : Reg} (hx : x ≠ 15) (hy : y ≠ 15) (n : Nibble) (px : Fin 64)
    (py : Fin 32) : SpriteCovers (s.afterDraw x y n) x y n px py ↔ SpriteCovers s x y n px py := by
  simp only [SpriteCovers, State.afterDraw_mem, State.afterDraw_i, State.afterDraw_getV_other s x y n hx,
    State.afterDraw_getV_other s x y n hy]

/-- Settles O41: a covered pixel is inverted twice, and before the second draw it is 1 exactly when it was 0. -/
theorem drawTwiceRestores : Obligations.DrawTwiceRestores := by
  intro x y n s hx hy hfits
  refine ⟨_, _, exec_drw_of_fits x y hfits, exec_drw_of_fits x y (s := s.afterDraw x y n) hfits, ?picture, ?flag⟩
  case picture =>
    refine FrameBuffer.ext_pixel fun py px => ?_
    by_cases hcov : SpriteCovers s x y n px py
    · have hcov' := (spriteCovers_afterDraw_iff hx hy n px py).mpr hcov
      exact (State.drawn_of_covered hcov').trans ((congrArg _ (State.drawn_of_covered hcov)).trans (Bool.not_not _))
    · have hcov' := mt (spriteCovers_afterDraw_iff hx hy n px py).mp hcov
      exact (State.drawn_of_not_covered hcov').trans (State.drawn_of_not_covered hcov)
  case flag =>
    rw [State.afterDraw_flag_eq_one_iff]
    refine exists_congr fun px => exists_congr fun py => ?_
    rw [spriteCovers_afterDraw_iff hx hy]
    refine and_congr_right fun hcov => ?_
    rw [State.afterDraw_fb, State.drawn_of_covered hcov, Bool.not_eq_true']

/-- The drawing depends on the picture, the bytes at `I`, and the coordinates taken round the edges. -/
theorem State.drawn_congr {s s' : State} {x y x' y' : Reg} (n : Nibble) (hfb : s'.fb = s.fb) (hmem : s'.mem = s.mem)
    (hi : s'.i = s.i) (hx : startColumn (s'.getV x') = startColumn (s.getV x))
    (hy : startRow (s'.getV y') = startRow (s.getV y)) : s'.drawn x' y' n = s.drawn x y n := by
  have hrows : s'.spriteRows n = s.spriteRows n := by rw [State.spriteRows, State.spriteRows, State.dataAddress,
    State.dataAddress, hmem, hi]
  rw [State.drawn, State.drawn, hx, hy, hrows, hfb]

/-- Settles O42: the two draws start at the same pixel of the same picture. -/
theorem drawPositionsWrap : Obligations.DrawPositionsWrap := by
  intro x y x' y' n s s' hfb hmem hi hx hy hfits
  have hdrawn := State.drawn_congr n hfb hmem hi hx hy
  refine ⟨_, _, exec_drw_of_fits x y hfits, exec_drw_of_fits x' y' (hi ▸ hfits), ?_, ?_⟩
  · rw [State.afterDraw_fb, State.afterDraw_fb, hdrawn]
  · rw [State.afterDraw_flag, State.afterDraw_flag, hdrawn]

end Sys2Proof.Machine
